-- ==== Sys2Proof/Word.lean ====
section
/-! DEFINITION. The word types of the block: `u8`, `u16` and `u32` of R9. All values are unsigned (R9). -/

namespace Sys2Proof

/-- `u8` (R9): a byte of a stream, a message or a frame. -/
abbrev Byte := BitVec 8

/-- `u16` (R9): a sequence field, a checksum, a length output. -/
abbrev Half := BitVec 16

/-- `u32` (R9): a value of the register read port, a Chip Info or Board word. -/
abbrev Word := BitVec 32

end Sys2Proof
end

