-- ==== Sys2Proof/Config.lean ====
section
/-! DEFINITION. The configuration record `Cfg` of R6: the OPEN fields, their constraints, the example configuration EX
of R8, and the configuration a block is built with, of which nothing is known but that it is legal.
The fixed fields of R6 (literals that one edit may have to correct, R7) stand in Machine/Literals.lean. -/

namespace Sys2Proof

/-- A byte order (R6, R12): `le` is LE, least significant byte first; `be` is BE, most significant byte first. -/
inductive Order where
  | le
  | be
deriving DecidableEq, Repr

/-- The bytes a response checksum covers (R6, R95). -/
inductive CrcSpan where
  | typeAndPayload
  | payloadOnly
deriving DecidableEq, Repr

/-- The closed enumeration of request kinds (R6, R91), in DOC0's order. -/
inductive ReqType where
  | query
  | head
  | data
  | tail
  | board
deriving DecidableEq, Repr

/-- The five kinds, in the order of R6. -/
def ReqType.all : List ReqType := [.query, .head, .data, .tail, .board]

/-- `typeCode : ReqType -> u8` of R6 as plain data, one code per kind. -/
structure TypeCodes where
  query : Byte
  head : Byte
  data : Byte
  tail : Byte
  board : Byte
deriving DecidableEq, Repr

/-- The OPEN fields of the configuration record of R6. -/
structure Cfg where
  /-- The CRC polynomial (R120). -/
  crcPoly : Half
  /-- The CRC start value, which CRC_ACC also takes at reset (R121, R270). -/
  crcInit : Half
  /-- Input bytes are reflected (R120). -/
  crcRefIn : Bool
  /-- The finished checksum is reflected (R120). -/
  crcRefOut : Bool
  /-- The final XOR (R120). -/
  crcXorOut : Half
  /-- The wire order of seq and seq_complement (R56). -/
  seqOrder : Order
  /-- The wire order of the checksum of requests and responses (R56). -/
  crcOrder : Order
  /-- The order of the Board response value (R56, R99). -/
  boardOrder : Order
  /-- The bytes a response checksum covers (R95). -/
  rspCrcSpan : CrcSpan
  /-- The five request type codes (R91). -/
  typeCodes : TypeCodes
  /-- The position of the ca flag (R98). -/
  caBit : Fin 8
  /-- The position of the tee flag (R98). -/
  teeBit : Fin 8
  /-- The position of the multiform flag (R98). -/
  multiformBit : Fin 8
deriving DecidableEq, Repr

/-- `typeCode(k)` of R6. -/
def Cfg.typeCode (c : Cfg) : ReqType → Byte
  | .query => c.typeCodes.query
  | .head => c.typeCodes.head
  | .data => c.typeCodes.data
  | .tail => c.typeCodes.tail
  | .board => c.typeCodes.board

/-- R6's constraint on `typeCode`, first half: no two kinds share a code. -/
def Cfg.typeCodesDistinct (c : Cfg) : Bool :=
  decide ((ReqType.all.map c.typeCode).Nodup)

/-- R6's constraint on `typeCode`, second half: bit 7 of every code is 0. -/
def Cfg.typeCodesBit7Clear (c : Cfg) : Bool :=
  ReqType.all.all fun k => !(c.typeCode k).getLsbD 7

/-- R6's constraint on the flag positions: pairwise distinct. -/
def Cfg.flagBitsDistinct (c : Cfg) : Bool :=
  decide ([c.caBit, c.teeBit, c.multiformBit].Nodup)

/-- The well-formedness check of a configuration (R6, I16): a configuration that breaks it is refused at launch. -/
def Cfg.wf (c : Cfg) : Bool :=
  c.typeCodesDistinct && c.typeCodesBit7Clear && c.flagBitsDistinct

/-- The example configuration EX of R8. It serves the test vectors only: it is no claim about the target (R8, D30). Log 17. -/
def Cfg.ex : Cfg where
  crcPoly := 0x1021
  crcInit := 0x0000
  crcRefIn := false
  crcRefOut := false
  crcXorOut := 0x0000
  seqOrder := .le
  crcOrder := .be
  boardOrder := .be
  rspCrcSpan := .typeAndPayload
  typeCodes := { query := 0x01, head := 0x02, data := 0x03, tail := 0x04, board := 0x05 }
  caBit := 0
  teeBit := 1
  multiformBit := 2

/-- A configuration together with the proof that it meets the constraints of R6: what a block may be built with (R273).
The defaults only show Lean that the type is inhabited. -/
structure LegalCfg where
  cfg : Cfg := Cfg.ex
  legal : cfg.wf = true := by decide
deriving Inhabited

/-- The configuration the block is built with (R6, R273). OPEN: it has no body, so no proof can learn a field's value;
all that is known is that it is legal. Log 1. -/
opaque Config.built : LegalCfg

/-- The configuration State.reset carries. Log 1. -/
def Config.cfg : Cfg := Config.built.cfg

/-- Where a platform maps the block, if it maps it at all: the OPEN parameter of R62 and D5. No rule reads it. Log 10. -/
opaque Config.blockBase : Option Nat

end Sys2Proof
end

