-- ==== Sys2Proof/Machine/Serial.lean ====
section
/-! DEFINITION. Byte strings and serialisation (R9 to R12), used by the message decoder and by the frame codec. -/

namespace Sys2Proof

/-- `s[i]` (R11); a position outside s reads 0x00, which no rule uses. Log 11. -/
def byteAt (s : List Byte) (i : Nat) : Byte := s.getD i 0

/-- `s[i..j]` (R11): the bytes i to j inclusive, empty when j < i. -/
def slice (s : List Byte) (i j : Nat) : List Byte := (s.drop i).take (j + 1 - i)

/-- `ser16(v, o)` (R12). -/
def ser16 (v : Half) : Order → List Byte
  | .le => [v.extractLsb' 0 8, v.extractLsb' 8 8]
  | .be => [v.extractLsb' 8 8, v.extractLsb' 0 8]

/-- `ser32(v, o)` (R12). -/
def ser32 (v : Word) : Order → List Byte
  | .le => [v.extractLsb' 0 8, v.extractLsb' 8 8, v.extractLsb' 16 8, v.extractLsb' 24 8]
  | .be => [v.extractLsb' 24 8, v.extractLsb' 16 8, v.extractLsb' 8 8, v.extractLsb' 0 8]

/-- `de16(s, o)` (R12): the inverse of `ser16` on strings of length 2. Log 11. -/
def de16 (s : List Byte) : Order → Half
  | .le => byteAt s 1 ++ byteAt s 0
  | .be => byteAt s 0 ++ byteAt s 1

/-- `de32(s, o)` (R12): the inverse of `ser32` on strings of length 4. Log 11. -/
def de32 (s : List Byte) : Order → Word
  | .le => byteAt s 3 ++ byteAt s 2 ++ byteAt s 1 ++ byteAt s 0
  | .be => byteAt s 0 ++ byteAt s 1 ++ byteAt s 2 ++ byteAt s 3

end Sys2Proof
end

