-- ==== Sys2Proof/Syntax.lean ====
section
/-! DEFINITION. The commands of the block: one constructor of `Instr` per row of R83 (spec/opcode_table.json), and the
operand kinds of R82. -/

namespace Sys2Proof

/-- The operand kinds of R82. -/
inductive OperandKind where
  /-- One byte. -/
  | b8
  /-- One byte, a request type code that the command checks. -/
  | t8
  /-- Two bytes, little-endian. -/
  | h16
  /-- A little-endian 16-bit length L, then L bytes. -/
  | str
deriving DecidableEq, Repr

/-- One operand of a command message, assembled (R82). -/
inductive Operand where
  | byte (b : Byte)
  | half (v : Half)
  | str (s : List Byte)
deriving DecidableEq, Repr

/-- The 18 commands of the command map (R83), operands in message order. -/
inductive Instr where
  /-- 0x00 CRC_CLEAR (R122). -/
  | crcClear
  /-- 0x01 CRC_UPDATE b (R123). -/
  | crcUpdate (b : Byte)
  /-- 0x02 CRC_FINAL (R124). -/
  | crcFinal
  /-- 0x03 CRC_COMPUTE d (R125). -/
  | crcCompute (d : List Byte)
  /-- 0x04 CRC_CHECK d, v (R126). -/
  | crcCheck (d : List Byte) (v : Half)
  /-- 0x10 SEQ_RESTART (R141). -/
  | seqRestart
  /-- 0x11 SEQ_NEXT (R143). -/
  | seqNext
  /-- 0x12 SEQ_PEEK (R145). -/
  | seqPeek
  /-- 0x13 SEQ_CHECK s, c (R146). -/
  | seqCheck (sq : Half) (c : Half)
  /-- 0x20 ENC_REQ t, s, p (R161). -/
  | encReq (t : Byte) (sq : Half) (p : List Byte)
  /-- 0x21 ENC_REQ_NEXT t, p (R164). -/
  | encReqNext (t : Byte) (p : List Byte)
  /-- 0x22 ENC_RSP_DATA t, p, cs (R167). -/
  | encRspData (t : Byte) (p : List Byte) (cs : Byte)
  /-- 0x23 ENC_RSP_STATUS cs (R169). -/
  | encRspStatus (cs : Byte)
  /-- 0x30 DEC_RSP t (R181). -/
  | decRsp (t : Byte)
  /-- 0x31 DEC_REQ n (R192). -/
  | decReq (n : Half)
  /-- 0x32 CS_CLASSIFY b (R196). -/
  | csClassify (b : Byte)
  /-- 0x33 PARSE_CHIPINFO p (R198). -/
  | parseChipInfo (p : List Byte)
  /-- 0x34 PARSE_BOARD p (R200). -/
  | parseBoard (p : List Byte)
deriving DecidableEq, Repr

/-- A command's operands, in the order of R83. -/
def Instr.operands : Instr → List Operand
  | .crcClear => []
  | .crcUpdate b => [.byte b]
  | .crcFinal => []
  | .crcCompute d => [.str d]
  | .crcCheck d v => [.str d, .half v]
  | .seqRestart => []
  | .seqNext => []
  | .seqPeek => []
  | .seqCheck sq c => [.half sq, .half c]
  | .encReq t sq p => [.byte t, .half sq, .str p]
  | .encReqNext t p => [.byte t, .str p]
  | .encRspData t p cs => [.byte t, .str p, .byte cs]
  | .encRspStatus cs => [.byte cs]
  | .decRsp t => [.byte t]
  | .decReq n => [.half n]
  | .csClassify b => [.byte b]
  | .parseChipInfo p => [.str p]
  | .parseBoard p => [.str p]

end Sys2Proof
end

