-- ==== Sys2Proof/WellFormed.lean ====
section
/-! DEFINITION. Well-formed commands: those a command message can carry. The only bound is the 16-bit length prefix of a
`str` operand (R82, R85); a command's own bounds on lengths and types are checked by the command and reported as a status
code, so they are no part of this. The check of a configuration (R6, I16) is Cfg.wf in Config.lean. -/

namespace Sys2Proof

/-- An operand a message can carry: a string fits its 16-bit length prefix (R82). -/
def Operand.wf : Operand → Bool
  | .byte _ => true
  | .half _ => true
  | .str s => decide (s.length < 65536)

/-- A command a message can carry: every operand fits (R82, R85). Log 18. -/
def Instr.wf (i : Instr) : Bool :=
  i.operands.all Operand.wf

end Sys2Proof
end

