-- ==== Sys2Proof/Decode.lean ====
section
/-! DEFINITION. The command encoding (R80 to R85): the decoder of command messages, total on any byte string, and the
encoder written from the same map. A message's bounds are the port's (R80), so a message is a list of bytes. -/

namespace Sys2Proof

/-- Why a message is not a command (R84). Each reason finishes with 0x40 ILLEGAL_COMMAND. -/
inductive Reject where
  /-- The message has no code byte (spec/95_test_vectors.md 2.7, the empty message). -/
  | emptyMessage
  /-- The code byte is not in the command map. -/
  | reservedCode (c : Byte)
  /-- Too few bytes for the code's operands. -/
  | tooFewBytes
  /-- Bytes left over after the last operand. -/
  | bytesLeftOver
deriving DecidableEq, Repr

/-- One row of the command map (R83): the code byte, the mnemonic, the operand kinds after the code, and the command that
assembled operands of those kinds make. -/
structure MapRow where
  code : Byte
  mnemonic : String
  format : List OperandKind
  build : List Operand → Option Instr

/-- The rows of UNIT 0x0, the CRC engine (R81, R83). -/
def crcRows : List MapRow := [
  { code := 0x00, mnemonic := "CRC_CLEAR", format := [],
    build := fun | [] => some .crcClear | _ => none },
  { code := 0x01, mnemonic := "CRC_UPDATE", format := [.b8],
    build := fun | [.byte b] => some (.crcUpdate b) | _ => none },
  { code := 0x02, mnemonic := "CRC_FINAL", format := [],
    build := fun | [] => some .crcFinal | _ => none },
  { code := 0x03, mnemonic := "CRC_COMPUTE", format := [.str],
    build := fun | [.str d] => some (.crcCompute d) | _ => none },
  { code := 0x04, mnemonic := "CRC_CHECK", format := [.str, .h16],
    build := fun | [.str d, .half v] => some (.crcCheck d v) | _ => none }]

/-- The rows of UNIT 0x1, the sequence counter (R81, R83). -/
def seqRows : List MapRow := [
  { code := 0x10, mnemonic := "SEQ_RESTART", format := [],
    build := fun | [] => some .seqRestart | _ => none },
  { code := 0x11, mnemonic := "SEQ_NEXT", format := [],
    build := fun | [] => some .seqNext | _ => none },
  { code := 0x12, mnemonic := "SEQ_PEEK", format := [],
    build := fun | [] => some .seqPeek | _ => none },
  { code := 0x13, mnemonic := "SEQ_CHECK", format := [.h16, .h16],
    build := fun | [.half s, .half c] => some (.seqCheck s c) | _ => none }]

/-- The rows of UNIT 0x2, the encoder (R81, R83). -/
def encRows : List MapRow := [
  { code := 0x20, mnemonic := "ENC_REQ", format := [.t8, .h16, .str],
    build := fun | [.byte t, .half s, .str p] => some (.encReq t s p) | _ => none },
  { code := 0x21, mnemonic := "ENC_REQ_NEXT", format := [.t8, .str],
    build := fun | [.byte t, .str p] => some (.encReqNext t p) | _ => none },
  { code := 0x22, mnemonic := "ENC_RSP_DATA", format := [.t8, .str, .b8],
    build := fun | [.byte t, .str p, .byte cs] => some (.encRspData t p cs) | _ => none },
  { code := 0x23, mnemonic := "ENC_RSP_STATUS", format := [.b8],
    build := fun | [.byte cs] => some (.encRspStatus cs) | _ => none }]

/-- The rows of UNIT 0x3, the decoder (R81, R83). -/
def decRows : List MapRow := [
  { code := 0x30, mnemonic := "DEC_RSP", format := [.t8],
    build := fun | [.byte t] => some (.decRsp t) | _ => none },
  { code := 0x31, mnemonic := "DEC_REQ", format := [.h16],
    build := fun | [.half n] => some (.decReq n) | _ => none },
  { code := 0x32, mnemonic := "CS_CLASSIFY", format := [.b8],
    build := fun | [.byte b] => some (.csClassify b) | _ => none },
  { code := 0x33, mnemonic := "PARSE_CHIPINFO", format := [.str],
    build := fun | [.str p] => some (.parseChipInfo p) | _ => none },
  { code := 0x34, mnemonic := "PARSE_BOARD", format := [.str],
    build := fun | [.str p] => some (.parseBoard p) | _ => none }]

/-- The command map (R83). Every code not in it is reserved (R84). -/
def commandMap : List MapRow := crcRows ++ seqRows ++ encRows ++ decRows

/-- The row of a code byte, none for a reserved code (R83, R84). -/
def rowOf (c : Byte) : Option MapRow := commandMap.find? fun r => r.code == c

/-- `code[7:4] = UNIT` (R81). -/
def unitOf (c : Byte) : BitVec 4 := c.extractLsb' 4 4

/-- `code[3:0] = OP` (R81). -/
def opOf (c : Byte) : BitVec 4 := c.extractLsb' 0 4

/-- Assembles one operand from the front of the message (R82): the operand and the bytes after it, none when the message
has too few. -/
def takeOperand : OperandKind → List Byte → Option (Operand × List Byte)
  | .b8, b :: rest => some (.byte b, rest)
  | .t8, b :: rest => some (.byte b, rest)
  | .h16, b0 :: b1 :: rest => some (.half (de16 [b0, b1] .le), rest)
  | .str, b0 :: b1 :: rest =>
    let len := (de16 [b0, b1] .le).toNat
    if len ≤ rest.length then some (.str (rest.take len), rest.drop len) else none
  | _, _ => none

/-- Assembles a command's operands in message order (R80, R82). -/
def takeOperands : List OperandKind → List Byte → Option (List Operand × List Byte)
  | [], bs => some ([], bs)
  | k :: ks, bs =>
    match takeOperand k bs with
    | none => none
    | some (o, rest) =>
      match takeOperands ks rest with
      | none => none
      | some (os, rest') => some (o :: os, rest')

/-- Decodes a command message (R80 to R84): the command, or why the message is reserved or malformed. The length must
be exactly what the operands need. -/
def decode : List Byte → Except Reject Instr
  | [] => .error .emptyMessage
  | c :: operands =>
    match rowOf c with
    | none => .error (.reservedCode c)
    | some r =>
      match takeOperands r.format operands with
      | none => .error .tooFewBytes
      | some (os, rest) =>
        match r.build os with
        | none => .error .tooFewBytes
        | some i => if rest.isEmpty then .ok i else .error .bytesLeftOver

/-! The encoder, from the same tables. -/

/-- A command's code byte (R83). -/
def Instr.code : Instr → Byte
  | .crcClear => 0x00
  | .crcUpdate _ => 0x01
  | .crcFinal => 0x02
  | .crcCompute _ => 0x03
  | .crcCheck _ _ => 0x04
  | .seqRestart => 0x10
  | .seqNext => 0x11
  | .seqPeek => 0x12
  | .seqCheck _ _ => 0x13
  | .encReq _ _ _ => 0x20
  | .encReqNext _ _ => 0x21
  | .encRspData _ _ _ => 0x22
  | .encRspStatus _ => 0x23
  | .decRsp _ => 0x30
  | .decReq _ => 0x31
  | .csClassify _ => 0x32
  | .parseChipInfo _ => 0x33
  | .parseBoard _ => 0x34

/-- An operand's message bytes (R82). -/
def Operand.bytes : Operand → List Byte
  | .byte b => [b]
  | .half v => ser16 v .le
  | .str s => ser16 (BitVec.ofNat 16 s.length) .le ++ s

/-- The length of an operand in a message (R82, R85). -/
def Operand.size : Operand → Nat
  | .byte _ => 1
  | .half _ => 2
  | .str s => 2 + s.length

/-- The message of a command: `code(1) ‖ operand_1 ‖ ... ‖ operand_k` (R80). -/
def encode (i : Instr) : List Byte := i.code :: i.operands.flatMap Operand.bytes

/-! Words of the opcode table. -/

/-- The first n bytes of a message whose bits are w, bit 0 the least significant bit of the first byte. -/
def wordBytes : Nat → Nat → List Byte
  | 0, _ => []
  | n + 1, w => BitVec.ofNat 8 w :: wordBytes n (w / 256)

/-- How many bytes operands of these kinds take when the message begins with bs and every later byte is 0 (R85). -/
def operandsSize : List OperandKind → List Byte → Nat
  | [], _ => 0
  | .b8 :: ks, bs => 1 + operandsSize ks (bs.drop 1)
  | .t8 :: ks, bs => 1 + operandsSize ks (bs.drop 1)
  | .h16 :: ks, bs => 2 + operandsSize ks (bs.drop 2)
  | .str :: ks, bs =>
    let len := (de16 bs .le).toNat
    2 + len + operandsSize ks (bs.drop (2 + len))

/-- The message of a table word: its bytes, and after them the zero bytes that the code's operands still need, since a
message is exactly as long as its operands make it (R84, R85). Log 7. -/
def tableMessage (nbits w : Nat) : List Byte :=
  match wordBytes ((nbits + 7) / 8) (w % 2 ^ nbits) with
  | [] => []
  | c :: bs =>
    match rowOf c with
    | none => c :: bs
    | some r => c :: bs ++ List.replicate (operandsSize r.format bs - bs.length) 0

/-- The command the decoder reads from a word of the opcode table, none where it refuses. Log 7. -/
def decodeTableWord (nbits w : Nat) : Option Instr :=
  match decode (tableMessage nbits w) with
  | .ok i => some i
  | .error _ => none

end Sys2Proof
end

