-- ==== Sys2Proof/Machine/Literals.lean ====
section
/-! DEFINITION. The fixed fields of the configuration record of R6, in one place, so that one edit corrects every rule
that uses them (R7, I20). The source's literals are unaudited (R7). Log 8. -/

namespace Sys2Proof.Config

/-- `csOK` (R6): the checksum_state byte that means OK. -/
def csOK : Byte := 0xAA

/-- `csBAD` (R6): the checksum_state byte that means BAD. -/
def csBAD : Byte := 0x55

/-- `rspTypeBit` (R6, R94): a response type is the request type OR this byte. -/
def rspTypeBit : Byte := 0x80

/-- `payloadMax` (R6, R96): the longest request payload. -/
def payloadMax : Nat := 1024

/-- `dataBlock` (R6, R93): the exact payload length of a DATA request. -/
def dataBlock : Nat := 1024

/-- `chipInfoLen` (R6, R98): the payload length of a QUERY response. -/
def chipInfoLen : Nat := 11

/-- `boardRspLen` (R6, R99): the payload length of a BOARD response. -/
def boardRspLen : Nat := 7

/-- `seqInit` (R6, D13): the counter's initial value, fixed at DOC0's conventional 0. Log 2. -/
def seqInit : Byte := 0

/-- The bytes of a request frame around its payload (R90): type, seq, seq_complement and checksum. -/
def reqOverhead : Nat := 7

/-- The bytes of a data-form response around its payload (R95): type, checksum and checksum_state. -/
def rspOverhead : Nat := 4

/-- The longest string a CRC command accepts (R125): the longest frame (R96). -/
def crcStringMax : Nat := 1031

/-- The mask of the 16-bit complement (R7, R140). -/
def complementMask : Half := 0xFFFF

end Sys2Proof.Config
end

