-- ==== Sys2Proof/Machine/State.lean ====
section
/-! DEFINITION. The state of the block (R20), the host's port, the reply of the last action, and reset (R270). -/

namespace Sys2Proof.Machine

/-- Why the machine stops. The block itself has no trap and no fault (R240): a command never raises one. -/
inductive Fault where
  /-- Raised by the step on the host action `hostTake n` with n above `len(tx)`, which R55 gives no meaning
  ("hostTake(n) for n <= len(tx)"). Safe: the model stops where the spec says nothing. Log 5. -/
  | takeBeyondTx
deriving DecidableEq, Repr

/-- Why a launch or an instruction is turned away. No command of the block is ever refused (R252). -/
inductive Refusal where
  /-- An instruction without a meaning. No arm of exec raises it: every command is modelled. Safe. -/
  | notModelled (mnemonic : String)
  /-- Raised by launch for a configuration that breaks a constraint of R6 (I16). Safe. -/
  | illegalConfiguration
  /-- Raised by launch when a second host would share the block (R68, D1). Safe. -/
  | moreThanOneHost
deriving DecidableEq, Repr

/-- The outputs of a result record (R32). An output that a command's rule does not name for its code is absent. -/
inductive Outputs where
  /-- No output. -/
  | absent
  /-- `v` of CRC_FINAL and CRC_COMPUTE, `v'` of CRC_CHECK (R124, R125, R126). -/
  | checksum (v : Half)
  /-- `seq`, `cmp` of SEQ_NEXT and SEQ_PEEK (R143, R145). -/
  | seqPair (sq : Half) (cmp : Half)
  /-- `len` of ENC_REQ, ENC_RSP_DATA and ENC_RSP_STATUS (R161, R167, R169). -/
  | frameLen (len : Half)
  /-- `len`, `seq` of ENC_REQ_NEXT (R164). -/
  | frameLenSeq (len : Half) (sq : Half)
  /-- `cstate` of a status-only DEC_RSP (R181). -/
  | stateByte (cstate : Byte)
  /-- `type`, `payload`, `checksum`, `cstate` of a data-form DEC_RSP (R181). -/
  | response (type : Byte) (payload : List Byte) (checksum : Half) (cstate : Byte)
  /-- `type`, `seq`, `cmp`, `payload`, `checksum` of DEC_REQ (R192). -/
  | request (type : Byte) (sq : Half) (cmp : Half) (payload : List Byte) (checksum : Half)
  /-- The five fields of PARSE_CHIPINFO (R198). -/
  | chipInfo (ca tee multiform : Bool) (bootVersion systemId : Word)
  /-- `value` of PARSE_BOARD (R200). -/
  | boardValue (value : Word)
deriving DecidableEq, Repr

/-- The result record of a command (R32): its status code and its outputs. -/
structure Result where
  code : Byte
  outputs : Outputs
deriving DecidableEq, Repr

/-- What the last action returned to the host: the model's own field, no state of the block (R20). Log 4. -/
inductive Reply where
  /-- Nothing: no action yet, or one that returns nothing (hostPut, a reset). -/
  | nothing
  /-- A command's result record (R32). -/
  | result (r : Result)
  /-- The bytes a hostTake returned (R55). -/
  | taken (bytes : List Byte)
  /-- The value a readReg returned (R31). -/
  | word (w : Word)
deriving DecidableEq, Repr

/-- What the host can do, one at a time (R31, R55, R65, R80, R270). -/
inductive HostAction where
  /-- Deliver one command message on the command port (R80). -/
  | command (msg : List Byte)
  /-- `hostPut(s)` (R55). -/
  | hostPut (s : List Byte)
  /-- `hostTake(n)` (R55). -/
  | hostTake (n : Nat)
  /-- `readReg(n)` (R31). -/
  | readReg (n : Nat)
  /-- Reset the block (R270, R272). -/
  | reset
deriving DecidableEq, Repr

/-- The state: the record of R20, and three fields of the model's own (cfg, port, reply). -/
structure State where
  /-- The configuration (R6), fixed for the life of the block (R273); a parameter of the step, carried here. Log 1. -/
  cfg : Cfg
  /-- The counter storage, SEQ.CNT (R21). -/
  seqCnt : Byte
  /-- The CRC accumulator, CRC_ACC (R23). -/
  crcAcc : Half
  /-- STATUS.CODE (R27). -/
  code : Byte
  /-- STATUS.CSTATE (R28). -/
  cstate : Byte
  /-- STATUS.CSTATE_VALID (R29). -/
  csValid : Bool
  /-- STATUS.ERR (R30). -/
  err : Bool
  /-- The transmit stream, first byte first (R52). -/
  tx : List Byte
  /-- The receive stream, first byte first (R53). -/
  rx : List Byte
  /-- The host's pending actions, next first (R65). The model's own. Log 3. -/
  port : List HostAction
  /-- What the last action returned. The model's own. Log 4. -/
  reply : Reply
deriving DecidableEq, Repr

/-- The block right after reset under a configuration (R270), with nothing pending on the port (R271). -/
def State.resetWith (c : Cfg) : State where
  cfg := c
  seqCnt := Config.seqInit
  crcAcc := c.crcInit
  code := 0x00
  cstate := 0x00
  csValid := false
  err := false
  tx := []
  rx := []
  port := []
  reply := .nothing

/-- The machine right after reset (R270), under the configuration it is built with (R273). -/
def State.reset : State := State.resetWith Config.cfg

end Sys2Proof.Machine
end

