-- ==== Sys2Proof/Machine/Crc.lean ====
section
/-! DEFINITION. The CRC engine (R120, R121): a 16-bit register shifted most significant bit first, under the OPEN
parameters of R6. -/

namespace Sys2Proof.Machine

/-- `reflect8` (R120): bit i of the result is bit 7-i. -/
def reflect8 (b : Byte) : Byte := b.reverse

/-- `reflect16` (R120): bit i of the result is bit 15-i. -/
def reflect16 (v : Half) : Half := v.reverse

/-- One shift of the loop of R120. -/
def crcShift (c : Cfg) (v : Half) : Half :=
  if v.getLsbD 15 then (v <<< 1) ^^^ c.crcPoly else v <<< 1

/-- n shifts of the loop of R120. -/
def crcShifts (c : Cfg) : Nat → Half → Half
  | 0, v => v
  | n + 1, v => crcShifts c n (crcShift c v)

/-- The input byte as the engine takes it: `x` of R120. -/
def crcInput (c : Cfg) (b : Byte) : Byte := if c.crcRefIn then reflect8 b else b

/-- `crcStep(c, b)` (R120). -/
def crcStep (c : Cfg) (v : Half) (b : Byte) : Half :=
  crcShifts c 8 (v ^^^ ((crcInput c b).setWidth 16 <<< 8))

/-- `crcFinal(c)` (R120). -/
def crcFinal (c : Cfg) (v : Half) : Half :=
  (if c.crcRefOut then reflect16 v else v) ^^^ c.crcXorOut

/-- `crc16(s)` (R121). -/
def crc16 (c : Cfg) (s : List Byte) : Half := crcFinal c (s.foldl (crcStep c) c.crcInit)

end Sys2Proof.Machine
end

