-- ==== Sys2Proof/Machine/Flags.lean ====
section
/-! DEFINITION. The status codes (R241), the STATUS register (R26) and the register read values (R31). The block has no
other flags (R33). -/

namespace Sys2Proof.Machine

/-- The complete list of status codes (R241). -/
inductive Status where
  | ok
  | rejected
  | framingShort
  | framingType
  | framingCstate
  | checksumMismatch
  | complementMismatch
  | illegalCommand
  | illegalType
  | illegalLength
deriving DecidableEq, Repr

/-- The number of a status code (R241). -/
def Status.byte : Status → Byte
  | .ok => 0x00
  | .rejected => 0x01
  | .framingShort => 0x10
  | .framingType => 0x11
  | .framingCstate => 0x12
  | .checksumMismatch => 0x20
  | .complementMismatch => 0x30
  | .illegalCommand => 0x40
  | .illegalType => 0x41
  | .illegalLength => 0x42

/-- `code[7:4]`, the class of a code (R242). -/
def statusClass (code : Byte) : Byte := code >>> 4

/-- `csClass(b)` (R180). -/
def csClass (b : Byte) : Status :=
  if b = Config.csOK then .ok
  else if b = Config.csBAD then .rejected
  else .framingCstate

/-- STATUS.ERR after a command that finishes with a code (R30, R243): sticky. -/
def stickyErr (err : Bool) (x : Status) : Bool :=
  if x.byte = 0x00 then err else true

/-- A one-bit field as a 32-bit value, for packing. -/
def bitWord (b : Bool) : Word := if b then 1 else 0

/-- STATUS as the read port packs it (R26, R31). -/
def statusWord (s : State) : Word :=
  s.code.setWidth 32 ||| (s.cstate.setWidth 32 <<< 8) ||| (bitWord s.csValid <<< 16) ||| (bitWord s.err <<< 17)

/-- SEQ as read (R21): the high byte is hardwired 0. -/
def seqWord (s : State) : Half := s.seqCnt.setWidth 16

/-- `readReg(n)` (R31). -/
def readRegValue (s : State) : Nat → Word
  | 0 => (seqWord s).setWidth 32
  | 1 => s.crcAcc.setWidth 32
  | 2 => statusWord s
  | _ => 0

end Sys2Proof.Machine
end

