-- ==== Sys2Proof/Machine/Operands.lean ====
section
/-! DEFINITION. What an operand stands for: request type codes and their kinds (R14, R91), the response form of a kind
(R95), and the counter arithmetic (R140). The operand kinds of a message and their assembly are in Decode.lean. -/

namespace Sys2Proof.Machine

/-- `kind(t)` (R14): the kind whose code is t, none when t is no request type. Under a legal configuration at most one
kind has the code; under an illegal one, which launch refuses, the first. Log 6. -/
def kindOf (c : Cfg) (t : Byte) : Option ReqType :=
  ReqType.all.find? fun k => c.typeCode k == t

/-- `isReq(t)` (R14). -/
def isReq (c : Cfg) (t : Byte) : Bool := (kindOf c t).isSome

/-- The form of the response to a request kind (R95): data form with its payload length, or status-only. -/
inductive RspForm where
  | dataForm (n : Nat)
  | statusOnly
deriving DecidableEq, Repr

/-- `form(k)` and `n(k)` (R95). -/
def rspForm : ReqType → RspForm
  | .query => .dataForm Config.chipInfoLen
  | .board => .dataForm Config.boardRspLen
  | .head => .statusOnly
  | .data => .statusOnly
  | .tail => .statusOnly

/-- The response type of a request type code (R94, C1): `t OR 0x80`. -/
def rspType (t : Byte) : Byte := t ||| Config.rspTypeBit

/-- `inc8(c)` (R140): 255 wraps to 0. -/
def inc8 (c : Byte) : Byte := c + 1

/-- `seq16(c)` (R140): high byte 0. -/
def seq16 (c : Byte) : Half := c.setWidth 16

/-- `cmp16(s)` (R140): the 16-bit complement. -/
def cmp16 (s : Half) : Half := s ^^^ Config.complementMask

end Sys2Proof.Machine
end

