-- ==== Sys2Proof/Machine/Frame.lean ====
section
/-! DEFINITION. Frames as pure functions of the configuration: their layouts (R90, R95), the fields a decoder reads from
them and the code it gives them (R181, R190, R192), and the payload layouts (R98, R99). -/

namespace Sys2Proof.Machine

/-! Requests. -/

/-- `reqFrame(t, s, p)` (R160), the layout of R90. -/
def reqFrame (c : Cfg) (t : Byte) (sq : Half) (p : List Byte) : List Byte :=
  let body := [t] ++ ser16 sq c.seqOrder ++ ser16 (cmp16 sq) c.seqOrder ++ p
  body ++ ser16 (crc16 c body) c.crcOrder

/-- The checks of ENC_REQ and ENC_REQ_NEXT, in their order (R161, R164, R246): the code of the first that fails. -/
def reqCheck (c : Cfg) (t : Byte) (p : List Byte) : Status :=
  match kindOf c t with
  | none => .illegalType
  | some k =>
    if p.length > Config.payloadMax then .illegalLength
    else if k = .data ∧ p.length ≠ Config.dataBlock then .illegalLength
    else .ok

/-- The fields DEC_REQ reads from a frame (R192). -/
structure ReqFields where
  type : Byte
  sq : Half
  cmp : Half
  payload : List Byte
  checksum : Half
  /-- The bytes the checksum covers: bytes 0 to 4+n (R90, R129). -/
  covered : List Byte
deriving DecidableEq, Repr

/-- The fields of a request frame with an n-byte payload (R90, R192). -/
def reqFields (c : Cfg) (n : Nat) (f : List Byte) : ReqFields where
  type := byteAt f 0
  sq := de16 (slice f 1 2) c.seqOrder
  cmp := de16 (slice f 3 4) c.seqOrder
  payload := slice f 5 (4 + n)
  checksum := de16 (slice f (5 + n) (6 + n)) c.crcOrder
  covered := slice f 0 (4 + n)

/-- The code DEC_REQ gives a whole frame, its checks in order (R192, R246). -/
def reqVerdict (c : Cfg) (r : ReqFields) : Status :=
  if isReq c r.type = false then .framingType
  else if r.cmp ≠ cmp16 r.sq then .complementMismatch
  else if crc16 c r.covered ≠ r.checksum then .checksumMismatch
  else .ok

/-- The outputs of DEC_REQ for a whole frame (R192). -/
def ReqFields.outputs (r : ReqFields) : Outputs :=
  .request r.type r.sq r.cmp r.payload r.checksum

/-! Responses. -/

/-- The bytes a response checksum covers (R95, R129): with or without the type byte. -/
def rspCovered (c : Cfg) (rt : Byte) (p : List Byte) : List Byte :=
  match c.rspCrcSpan with
  | .typeAndPayload => [rt] ++ p
  | .payloadOnly => p

/-- `rspData(t, p, cs)` (R166), the data form of R95. -/
def rspData (c : Cfg) (t : Byte) (p : List Byte) (cs : Byte) : List Byte :=
  [rspType t] ++ p ++ ser16 (crc16 c (rspCovered c (rspType t) p)) c.crcOrder ++ [cs]

/-- `rspStatus(cs)` (R166), the status-only form of R95. -/
def rspStatus (cs : Byte) : List Byte := [cs]

/-- The checks of ENC_RSP_DATA, in their order (R167, R246). -/
def rspCheck (c : Cfg) (t : Byte) (p : List Byte) : Status :=
  match kindOf c t with
  | none => .illegalType
  | some k =>
    match rspForm k with
    | .statusOnly => .illegalType
    | .dataForm n => if p.length ≠ n then .illegalLength else .ok

/-- The fields DEC_RSP reads from a data-form reply (R181). -/
structure RspFields where
  type : Byte
  payload : List Byte
  checksum : Half
  cstate : Byte
deriving DecidableEq, Repr

/-- The fields of a data-form reply with an n-byte payload (R95, R181). -/
def rspFields (c : Cfg) (n : Nat) (f : List Byte) : RspFields where
  type := byteAt f 0
  payload := slice f 1 n
  checksum := de16 (slice f (n + 1) (n + 2)) c.crcOrder
  cstate := byteAt f (n + 3)

/-- The code DEC_RSP gives a whole data-form reply to a request of type t, its checks in order (R181, R182). -/
def rspVerdict (c : Cfg) (t : Byte) (r : RspFields) : Status :=
  if r.type ≠ rspType t then .framingType
  else if r.cstate ≠ Config.csOK ∧ r.cstate ≠ Config.csBAD then .framingCstate
  else if crc16 c (rspCovered c r.type r.payload) ≠ r.checksum then .checksumMismatch
  else csClass r.cstate

/-- The outputs of DEC_RSP for a whole data-form reply (R181). -/
def RspFields.outputs (r : RspFields) : Outputs :=
  .response r.type r.payload r.checksum r.cstate

/-! Payloads. -/

/-- The fields of a Chip Info payload (R98, R198); reserved bytes and the other flag bits are ignored (R100). -/
def chipInfoOutputs (c : Cfg) (p : List Byte) : Outputs :=
  .chipInfo ((byteAt p 0).getLsbD c.caBit) ((byteAt p 0).getLsbD c.teeBit) ((byteAt p 0).getLsbD c.multiformBit)
    (de32 (slice p 3 6) .be) (de32 (slice p 7 10) .be)

/-- The value of a Board response payload (R99, R200); bytes 0 to 2 are ignored (R100). -/
def boardOutputs (c : Cfg) (p : List Byte) : Outputs :=
  .boardValue (de32 (slice p 3 6) c.boardOrder)

end Sys2Proof.Machine
end

