-- ==== Sys2Proof/Machine/Ops.lean ====
section
/-! DEFINITION. The named operations over State (R13): finishing a command, writing registers, and the two streams.
The block takes no exception and has no return from one (R240, R250): every error is a `finish` with an error code, and
`finish` is the one operation that reports it. -/

namespace Sys2Proof.Machine

/-- `finish(x)` (R243) and the result record (R32): writes CODE, sets ERR on an error code, returns the result, and
writes no other field. -/
def finish (x : Status) (out : Outputs) (s : State) : State :=
  { s with code := x.byte, err := stickyErr s.err x, reply := .result { code := x.byte, outputs := out } }

/-- `seqCnt <- v` (R13, R21). -/
def setCnt (v : Byte) (s : State) : State := { s with seqCnt := v }

/-- `crcAcc <- v` (R13, R23). -/
def setCrcAcc (v : Half) (s : State) : State := { s with crcAcc := v }

/-- `cstate <- b; csValid <- 1` (R28, R29): a checksum_state byte is captured. -/
def captureState (b : Byte) (s : State) : State := { s with cstate := b, csValid := true }

/-- `cstate <- 0x00; csValid <- 0` (R28, R29): no checksum_state byte was captured. -/
def captureNone (s : State) : State := { s with cstate := 0x00, csValid := false }

/-- `emit(f)` (R13, R52). -/
def emit (f : List Byte) (s : State) : State := { s with tx := s.tx ++ f }

/-- `avail()` (R13). -/
def avail (s : State) : Nat := s.rx.length

/-- The bytes `take(n)` returns (R13). -/
def takenBytes (n : Nat) (s : State) : List Byte := s.rx.take n

/-- What `take(n)` leaves (R13, R53). -/
def dropRx (n : Nat) (s : State) : State := { s with rx := s.rx.drop n }

/-- What `drain()` leaves (R13). -/
def drain (s : State) : State := { s with rx := [] }

/-- The `len` output of an encoder (R161): the frame's length as a u16. -/
def lenOutput (f : List Byte) : Half := BitVec.ofNat 16 f.length

/-- A reserved or malformed command message (R84): 0x40 ILLEGAL_COMMAND, and nothing else changes. -/
def illegalCommand (s : State) : State := finish .illegalCommand .absent s

end Sys2Proof.Machine
end

