-- ==== Sys2Proof/Machine/CrcUnit.lean ====
section
/-! DEFINITION. The CRC engine commands, UNIT 0x0 (R122 to R126). -/

namespace Sys2Proof.Machine

/-- CRC_CLEAR (R122). -/
def execCrcClear (s : State) : Host.Outcome State Fault Refusal :=
  .next (finish .ok .absent (setCrcAcc s.cfg.crcInit s))

/-- CRC_UPDATE b (R123), its pseudocode. Log 16. -/
def execCrcUpdate (b : Byte) (s : State) : Host.Outcome State Fault Refusal :=
  .next (finish .ok .absent (setCrcAcc (crcStep s.cfg s.crcAcc b) s))

/-- CRC_FINAL (R124). -/
def execCrcFinal (s : State) : Host.Outcome State Fault Refusal :=
  .next (finish .ok (.checksum (crcFinal s.cfg s.crcAcc)) s)

/-- CRC_COMPUTE d (R125). -/
def execCrcCompute (d : List Byte) (s : State) : Host.Outcome State Fault Refusal :=
  .next <|
    if d.length > Config.crcStringMax then finish .illegalLength .absent s
    else finish .ok (.checksum (crc16 s.cfg d)) s

/-- CRC_CHECK d, v (R126). -/
def execCrcCheck (d : List Byte) (v : Half) (s : State) : Host.Outcome State Fault Refusal :=
  .next <|
    if d.length > Config.crcStringMax then finish .illegalLength .absent s
    else finish (if crc16 s.cfg d = v then .ok else .checksumMismatch) (.checksum (crc16 s.cfg d)) s

end Sys2Proof.Machine
end

