-- ==== Sys2Proof/Machine/DecUnit.lean ====
section
/-! DEFINITION. The frame decoder and validator commands, UNIT 0x3 (R181 to R200). RX is read destructively: the bytes
taken stay taken on every code (R181, R192, R53). -/

namespace Sys2Proof.Machine

/-- DEC_RSP of a status-only reply (R181, R185): one byte, classified. -/
def decRspStatusOnly (s : State) : State :=
  match s.rx with
  | [] => finish .framingShort .absent (captureNone (drain s))
  | b :: _ => finish (csClass b) (.stateByte b) (captureState b (dropRx 1 s))

/-- DEC_RSP of a data-form reply with an n-byte payload (R181): a short reply drains RX (R184); a whole one has its state
byte captured on every code (R183). -/
def decRspDataForm (t : Byte) (n : Nat) (s : State) : State :=
  let frameLen := n + Config.rspOverhead
  if avail s < frameLen then finish .framingShort .absent (captureNone (drain s))
  else
    let r := rspFields s.cfg n (takenBytes frameLen s)
    finish (rspVerdict s.cfg t r) r.outputs (captureState r.cstate (dropRx frameLen s))

/-- DEC_RSP t (R181); t is the request's type code. An unknown type leaves RX untouched (R187). -/
def execDecRsp (t : Byte) (s : State) : Host.Outcome State Fault Refusal :=
  .next <|
    match kindOf s.cfg t with
    | none => finish .illegalType .absent (captureNone s)
    | some k =>
      match rspForm k with
      | .statusOnly => decRspStatusOnly s
      | .dataForm n => decRspDataForm t n s

/-- DEC_REQ n (R192). -/
def execDecReq (n : Half) (s : State) : Host.Outcome State Fault Refusal :=
  .next <|
    let frameLen := n.toNat + Config.reqOverhead
    if n.toNat > Config.payloadMax then finish .illegalLength .absent s
    else if avail s < frameLen then finish .framingShort .absent (drain s)
    else
      let r := reqFields s.cfg n.toNat (takenBytes frameLen s)
      finish (reqVerdict s.cfg r) r.outputs (dropRx frameLen s)

/-- CS_CLASSIFY b (R196): the byte is the operand; RX is not read (C11). CS_CLASSIFY names no output: R196 lists none and
R241 lists cstate as recorded, which is STATUS.CSTATE. Log 15. -/
def execCsClassify (b : Byte) (s : State) : Host.Outcome State Fault Refusal :=
  .next (finish (csClass b) .absent (captureState b s))

/-- PARSE_CHIPINFO p (R198). -/
def execParseChipInfo (p : List Byte) (s : State) : Host.Outcome State Fault Refusal :=
  .next <|
    if p.length ≠ Config.chipInfoLen then finish .illegalLength .absent s
    else finish .ok (chipInfoOutputs s.cfg p) s

/-- PARSE_BOARD p (R200). -/
def execParseBoard (p : List Byte) (s : State) : Host.Outcome State Fault Refusal :=
  .next <|
    if p.length ≠ Config.boardRspLen then finish .illegalLength .absent s
    else finish .ok (boardOutputs s.cfg p) s

end Sys2Proof.Machine
end

