-- ==== Sys2Proof/Machine/EncUnit.lean ====
section
/-! DEFINITION. The frame encoder commands, UNIT 0x2 (R160 to R169). An error emits nothing and advances nothing
(R248). -/

namespace Sys2Proof.Machine

/-- ENC_REQ t, s, p (R161); the counter is not touched (R162). -/
def execEncReq (t : Byte) (sq : Half) (p : List Byte) (s : State) : Host.Outcome State Fault Refusal :=
  .next <|
    match reqCheck s.cfg t p with
    | .ok =>
      let f := reqFrame s.cfg t sq p
      finish .ok (.frameLen (lenOutput f)) (emit f s)
    | e => finish e .absent s

/-- ENC_REQ_NEXT t, p (R164). -/
def execEncReqNext (t : Byte) (p : List Byte) (s : State) : Host.Outcome State Fault Refusal :=
  .next <|
    match reqCheck s.cfg t p with
    | .ok =>
      let sq := seq16 s.seqCnt
      let f := reqFrame s.cfg t sq p
      finish .ok (.frameLenSeq (lenOutput f) sq) (emit f (setCnt (inc8 s.seqCnt) s))
    | e => finish e .absent s

/-- ENC_RSP_DATA t, p, cs (R167); t is the request's type code, cs any byte. -/
def execEncRspData (t : Byte) (p : List Byte) (cs : Byte) (s : State) : Host.Outcome State Fault Refusal :=
  .next <|
    match rspCheck s.cfg t p with
    | .ok =>
      let f := rspData s.cfg t p cs
      finish .ok (.frameLen (lenOutput f)) (emit f s)
    | e => finish e .absent s

/-- ENC_RSP_STATUS cs (R169). -/
def execEncRspStatus (cs : Byte) (s : State) : Host.Outcome State Fault Refusal :=
  .next (finish .ok (.frameLen (lenOutput (rspStatus cs))) (emit (rspStatus cs) s))

end Sys2Proof.Machine
end

