-- ==== Sys2Proof/Machine/SeqUnit.lean ====
section
/-! DEFINITION. The sequence counter commands, UNIT 0x1 (R141 to R146). -/

namespace Sys2Proof.Machine

/-- SEQ_RESTART (R141). -/
def execSeqRestart (s : State) : Host.Outcome State Fault Refusal :=
  .next (finish .ok .absent (setCnt Config.seqInit s))

/-- SEQ_NEXT (R143): the value before the increment, and its complement. -/
def execSeqNext (s : State) : Host.Outcome State Fault Refusal :=
  .next (finish .ok (.seqPair (seq16 s.seqCnt) (cmp16 (seq16 s.seqCnt))) (setCnt (inc8 s.seqCnt) s))

/-- SEQ_PEEK (R145). -/
def execSeqPeek (s : State) : Host.Outcome State Fault Refusal :=
  .next (finish .ok (.seqPair (seq16 s.seqCnt) (cmp16 (seq16 s.seqCnt))) s)

/-- SEQ_CHECK s, c (R146): over all 16 bits, and without the counter. -/
def execSeqCheck (sq c : Half) (s : State) : Host.Outcome State Fault Refusal :=
  .next (finish (if c = cmp16 sq then .ok else .complementMismatch) .absent s)

end Sys2Proof.Machine
end

