-- ==== Sys2Proof/Machine/Dispatch.lean ====
section
/-! DEFINITION. One arm per command (R83): each calls the command's meaning. -/

namespace Sys2Proof.Machine

def exec (i : Instr) (s : State) : Host.Outcome State Fault Refusal :=
  match i with
  | .crcClear => Sys2Proof.Machine.execCrcClear s
  | .crcUpdate b => Sys2Proof.Machine.execCrcUpdate b s
  | .crcFinal => Sys2Proof.Machine.execCrcFinal s
  | .crcCompute d => Sys2Proof.Machine.execCrcCompute d s
  | .crcCheck d v => Sys2Proof.Machine.execCrcCheck d v s
  | .seqRestart => Sys2Proof.Machine.execSeqRestart s
  | .seqNext => Sys2Proof.Machine.execSeqNext s
  | .seqPeek => Sys2Proof.Machine.execSeqPeek s
  | .seqCheck sq c => Sys2Proof.Machine.execSeqCheck sq c s
  | .encReq t sq p => Sys2Proof.Machine.execEncReq t sq p s
  | .encReqNext t p => Sys2Proof.Machine.execEncReqNext t p s
  | .encRspData t p cs => Sys2Proof.Machine.execEncRspData t p cs s
  | .encRspStatus cs => Sys2Proof.Machine.execEncRspStatus cs s
  | .decRsp t => Sys2Proof.Machine.execDecRsp t s
  | .decReq n => Sys2Proof.Machine.execDecReq n s
  | .csClassify b => Sys2Proof.Machine.execCsClassify b s
  | .parseChipInfo p => Sys2Proof.Machine.execParseChipInfo p s
  | .parseBoard p => Sys2Proof.Machine.execParseBoard p s

end Sys2Proof.Machine
end

