-- ==== Sys2Proof/Machine/Port.lean ====
section
/-! DEFINITION. What one host action does (R31, R55, R80, R84, R270): the command port, the streams, the register read
port and reset. -/

namespace Sys2Proof.Machine

/-- A command message (R80): the command it decodes to, run whole; a reserved or malformed one finishes 0x40 (R84). -/
def runMessage (msg : List Byte) (s : State) : Host.Outcome State Fault Refusal :=
  match decode msg with
  | .ok i => exec i s
  | .error _ => .next (illegalCommand s)

/-- `hostPut(s)` (R55): appends to RX and changes no register. -/
def hostPut (bs : List Byte) (s : State) : State := { s with rx := s.rx ++ bs, reply := .nothing }

/-- `hostTake(n)` (R55) for n <= len(tx): returns the first n bytes of TX and changes no register. Beyond that the rule
gives it no meaning. Log 5. -/
def hostTake (n : Nat) (s : State) : Host.Outcome State Fault Refusal :=
  if n ≤ s.tx.length then .next { s with tx := s.tx.drop n, reply := .taken (s.tx.take n) }
  else .fault .takeBeyondTx

/-- `readReg(n)` (R31): returns the register's value and changes no state. -/
def readReg (n : Nat) (s : State) : State := { s with reply := .word (readRegValue s n) }

/-- Block reset (R270): every field at its reset value, under the same configuration (R273). The host's pending actions
are the host's, and stay. Log 14. -/
def blockReset (s : State) : State := { State.resetWith s.cfg with port := s.port }

/-- One host action, whole (R2, R60). -/
def perform (a : HostAction) (s : State) : Host.Outcome State Fault Refusal :=
  match a with
  | .command msg => runMessage msg s
  | .hostPut bs => .next (hostPut bs s)
  | .hostTake n => hostTake n s
  | .readReg n => .next (readReg n s)
  | .reset => .next (blockReset s)

/-- The next action of the host, in program order (R65); with none pending the block waits (R257, R271). Log 3. -/
def runPort (s : State) : Host.Outcome State Fault Refusal :=
  match s.port with
  | [] => .next s
  | a :: rest => perform a { s with port := rest }

/-- The host presents a command message as its next action (R80). -/
def present (msg : List Byte) (s : State) : State := { s with port := .command msg :: s.port }

end Sys2Proof.Machine
end

