-- ==== Sys2Proof/Machine/Step.lean ====
section
/-! DEFINITION. One step of the machine: the host's next action (R2, R65). -/

namespace Sys2Proof.Machine

/-- One step (R2): the next pending action of the host, as one atomic transaction. Log 3. -/
def step (s : State) : Host.Outcome State Fault Refusal := runPort s

/-- s with the command message of a table word presented as the host's next action (R80). Log 3, log 7. -/
def State.withFetchWord (s : State) (nbits w : Nat) : State := present (tableMessage nbits w) s

end Sys2Proof.Machine
end

