-- ==== Sys2Proof/Machine/HostAgent.lean ====
section
/-! DEFINITION. The host that drives the block (44_host_sequences.md R210 to R228; R245): rounds, file transfers and the
negotiation. It holds no block state (R4): it issues commands and host actions, and its inputs are the bytes that reach
the transport before each reply timeout (R54, R228). What the target does is outside the spec. Log 9, log 12. -/

namespace Sys2Proof.Machine

/-! Errors at the host (R245, DOC0 §7). -/

/-- The error kinds of a host (44_host_sequences.md's opening, R245). -/
inductive ErrorKind where
  | transportError
  | timeout
  | framingError
  | checksumMismatch
  | rejectedByTarget
  | unsupportedChip
  /-- A code 0x40, 0x41 or 0x42: "the host itself is wrong", outside DOC0's kinds (R245). -/
  | hostUsage
  /-- The caller abandoned the session (R229), outside DOC0's kinds and no code of the block. Log 28. -/
  | abandoned
deriving DecidableEq, Repr

/-- The host's mapping of a status code to an error kind (R241, R244, R245); none for 0x00. -/
def errorKind (code : Byte) : Option ErrorKind :=
  if code = 0x00 then none
  else if code = 0x01 then some .rejectedByTarget
  else if code = 0x10 ∨ code = 0x11 ∨ code = 0x12 ∨ code = 0x30 then some .framingError
  else if code = 0x20 then some .checksumMismatch
  else some .hostUsage

/-! The host's own parameters. -/

/-- The negotiated Chip Info, which the host keeps (R34, R199, R221). -/
structure ChipInfo where
  ca : Bool
  tee : Bool
  multiform : Bool
  bootVersion : Word
  systemId : Word
deriving DecidableEq, Repr

/-- The choice of `headTailSeq` (R217, D31): whether a frame takes a counter value or a fixed one. -/
inductive SeqChoice where
  | consume
  | fixed (v : Half)
deriving DecidableEq, Repr

/-- The OPEN host parameters (R213, R216, R217, R221, R222, R224; D31, D33, D34). Log 9, log 19. -/
structure HostCfg where
  queryPayload : List Byte
  /-- `headPayload(L, offset, caps)` (R213). DESIGN CHOICE: caps is the negotiated Chip Info, since the spec does not say
  which target capability adds the offset (N5), and L and offset are unbounded, since the rules give no width (D33 and N5
  quote u32). Log 19, log 26. -/
  headPayload : Nat → Nat → ChipInfo → List Byte
  tailPayload : List Byte
  boardPayload : List Byte
  headTailSeq : SeqChoice
  /-- The same choice for QUERY and BOARD requests, of which the spec says only that either encoder may serve (R210). -/
  queryBoardSeq : SeqChoice
  fastbootV1 : ChipInfo → Bool

/-- The placeholders EXH of D41, for the spec's program vectors only. -/
def HostCfg.exh : HostCfg where
  queryPayload := []
  headPayload := fun len offset _ => ser32 (BitVec.ofNat 32 len) .be ++ ser32 (BitVec.ofNat 32 offset) .be
  tailPayload := []
  boardPayload := []
  headTailSeq := .consume
  queryBoardSeq := .consume
  fastbootV1 := fun _ => true

/-! One round (R210). -/

/-- The host's input for one round: what the transport delivers before the reply timeout (R54, R228), or that the caller
abandons the session (R229). -/
inductive Arrival where
  /-- The bytes that arrived, none of them when the reply timed out. -/
  | bytes (bs : List Byte)
  /-- An I/O failure on the serial channel. -/
  | ioFailure
  /-- The caller abandons the session before this round: between rounds (R229). -/
  | abandoned
  /-- The caller abandons the session with this round in flight, after the bytes given of its reply (R229, R279). What
  becomes of the target is outside the model (I6, log 12). -/
  | abandonedInFlight (arrived : List Byte)
deriving DecidableEq, Repr

/-- A request the host sends: its kind, its payload, and its sequence number, or none for the next counter value. -/
structure Request where
  kind : ReqType
  payload : List Byte
  sq : Option Half
deriving DecidableEq, Repr

/-- The command that encodes a request (R210). -/
def Request.command (c : Cfg) (r : Request) : Instr :=
  match r.sq with
  | none => .encReqNext (c.typeCode r.kind) r.payload
  | some v => .encReq (c.typeCode r.kind) v r.payload

/-- The state an outcome leaves. Every command and every action of the host agent completes, so the second argument is
never what it answers. -/
def stateAfter (o : Host.Outcome State Fault Refusal) (s : State) : State :=
  match o with
  | .next t => t
  | .fault _ => s
  | .refused _ => s

/-- Issues one command (R80). -/
def issue (i : Instr) (s : State) : State := stateAfter (exec i s) s

/-- The outputs of the last result record (R32). -/
def lastOutputs (s : State) : Outputs :=
  match s.reply with
  | .result r => r.outputs
  | _ => .absent

/-- How a round ended: the block, the frames handed to the transport, and the reply's outputs or an error. -/
structure RoundEnd where
  state : State
  sent : List (List Byte)
  result : Except ErrorKind Outputs

/-- The outcome of a decoded reply (R228, R245): a timeout when no byte arrived, else the kind of the code, else a
FramingError when bytes are left over, else the outputs. Log 9. -/
def replyResult (arrived : List Byte) (s : State) : Except ErrorKind Outputs :=
  if arrived.isEmpty then .error .timeout
  else
    match errorKind s.code with
    | some k => .error k
    | none => if s.rx.isEmpty then .ok (lastOutputs s) else .error .framingError

/-- The first half of a round (R210): encode, hand the frame to the transport; then what the host does with the reply. -/
def sendRequest (r : Request) (reply : State → State × Except ErrorKind Outputs) (s : State) : RoundEnd :=
  let s1 := issue (r.command s.cfg) s
  if s1.code ≠ 0x00 then { state := s1, sent := [], result := .error .hostUsage }
  else
    let e := reply (stateAfter (hostTake s1.tx.length s1) s1)
    { state := e.1, sent := [s1.tx], result := e.2 }

/-- One round (R210): encode, hand the frame to the transport, put the bytes that arrived, decode with DEC_RSP.
DESIGN CHOICE: after an I/O failure (R228), where the spec does not say what the host still does, it puts no bytes, issues
no DEC_RSP, and the frame it handed over counts as sent. Log 20.
DESIGN CHOICE: a round abandoned before its frame (R229) does nothing, and one abandoned in flight puts the bytes that
arrived and issues no DEC_RSP. Log 28. -/
def hostRound (r : Request) (a : Arrival) (s : State) : RoundEnd :=
  match a with
  | .abandoned => { state := s, sent := [], result := .error .abandoned }
  | .ioFailure => sendRequest r (fun s => (s, .error .transportError)) s
  | .abandonedInFlight bs => sendRequest r (fun s => (hostPut bs s, .error .abandoned)) s
  | .bytes bs =>
    let t := s.cfg.typeCode r.kind
    sendRequest r (fun s => let s := issue (.decRsp t) (hostPut bs s); (s, replyResult bs s)) s

/-! File transfers (R211 to R218). -/

/-- The arrival of the next round; when the input has none left, nothing arrives. -/
def nextArrival : List Arrival → Arrival
  | [] => .bytes []
  | a :: _ => a

/-- How a sequence of rounds ended: the block, the frames handed to the transport, the arrivals left, how many rounds
completed as OK, and the error that ended it. -/
structure RoundsEnd where
  state : State
  sent : List (List Byte)
  arrivals : List Arrival
  completed : Nat
  result : Option ErrorKind

/-- Rounds one after another, each only after the reply before it decoded as OK (R212), stopping at the first failure
(R218, R227) or where the caller abandons the session (R229). -/
def runRounds : List Request → List Arrival → State → RoundsEnd
  | [], arrivals, s => { state := s, sent := [], arrivals := arrivals, completed := 0, result := none }
  | r :: rs, arrivals, s =>
    let e := hostRound r (nextArrival arrivals) s
    match e.result with
    | .error k => { state := e.state, sent := e.sent, arrivals := arrivals.tail, completed := 0, result := some k }
    | .ok _ =>
      let e' := runRounds rs arrivals.tail e.state
      { e' with sent := e.sent ++ e'.sent, completed := e'.completed + 1 }

/-- `ceil(L / 1024)`, the number of DATA frames (R212). -/
def numBlocks (len : Nat) : Nat := (len + (Config.dataBlock - 1)) / Config.dataBlock

/-- `block(k)` (R214): 1024 bytes, the last block padded with zeros (R215). -/
def block (data : List Byte) (k : Nat) : List Byte :=
  let part := (data.drop (Config.dataBlock * k)).take Config.dataBlock
  part ++ List.replicate (Config.dataBlock - part.length) 0x00

/-- The sequence number a request is given (R217): none for the next counter value. -/
def chosenSq : SeqChoice → Option Half
  | .consume => none
  | .fixed v => some v

/-- The requests of a transfer, in order: one HEAD, the DATA blocks, one TAIL (R212 to R217). -/
def transferRequests (h : HostCfg) (chip : ChipInfo) (offset : Nat) (data : List Byte) : List Request :=
  [{ kind := .head, payload := h.headPayload data.length offset chip, sq := chosenSq h.headTailSeq }]
    ++ (List.range (numBlocks data.length)).map (fun k => { kind := .data, payload := block data k, sq := none })
    ++ [{ kind := .tail, payload := h.tailPayload, sq := chosenSq h.headTailSeq }]

/-- A file transfer (R211 to R218): SEQ_RESTART, then its rounds. DESIGN CHOICE: offset and length are unbounded numbers,
since the rules give no width (D33 and N5 quote u32). Log 26. -/
def transfer (h : HostCfg) (chip : ChipInfo) (offset : Nat) (data : List Byte) (arrivals : List Arrival) (s : State) :
    RoundsEnd :=
  runRounds (transferRequests h chip offset data) arrivals (issue .seqRestart s)

/-- The byte offset of a failed transfer of len bytes (R227): the data bytes whose DATA frames the target acknowledged.
The HEAD is the first of the completed rounds. Log 21. -/
def acknowledgedBytes (len completed : Nat) : Nat := min (Config.dataBlock * (completed - 1)) len

/-! Sessions (R226, R227). -/

/-- The states of the negotiation (R220), all but Failed. -/
inductive Phase where
  | query
  | headArea
  | auxcode
  | paramArea
  | boot
  | done
deriving DecidableEq, Repr

/-- The order fixed by the target (R220, C5): the state after each. Done is terminal. -/
def Phase.next : Phase → Phase
  | .query => .headArea
  | .headArea => .auxcode
  | .auxcode => .paramArea
  | .paramArea => .boot
  | .boot => .done
  | .done => .done

/-- The `kind` of a region that send_region takes (R226): the regions of R142, R223, R224 and R225. -/
inductive Region where
  | headArea
  | auxcode
  | paramArea
  | boot
deriving DecidableEq, Repr

/-- The state of the negotiation that transfers a region (R223, R224, R225). -/
def Region.phase : Region → Phase
  | .headArea => .headArea
  | .auxcode => .auxcode
  | .paramArea => .paramArea
  | .boot => .boot

/-- An error as the caller gets it (R227): its kind with the state name, the region and the byte offset. Outside a
transfer the offset is 0. Log 21. -/
structure SessionError where
  kind : ErrorKind
  phase : Phase
  region : Option Region
  byteOffset : Nat
deriving DecidableEq, Repr

/-- The current state of the negotiation, which the host keeps (R34, R220). -/
inductive Negotiation where
  /-- In this state, the states before it done. -/
  | reached (p : Phase)
  /-- Failed: the error carries the state and the error kind that caused it. -/
  | failed (error : SessionError)
deriving DecidableEq, Repr

/-- The caller's regions (R223 to R225), each as long as its bytes. The offset of the auxcode is the caller's and may be
selected from the Chip Info (R221, R223); that of the parameter area the caller derives from the Board value (R224) and the
Chip Info. DESIGN CHOICE: the bytes, and with them the lengths, are given before the call, so that neither depends on what
the target answers in it. Log 25. -/
structure Images where
  headArea : List Byte
  auxcode : List Byte
  auxOffset : ChipInfo → Nat
  paramArea : List Byte
  paramOffset : ChipInfo → Word → Nat
  boot : List Byte

/-- A session as the host holds it (R34): the block, the arrivals still to come, the frames sent, the negotiated Chip Info
and the current state of the negotiation. -/
structure Session where
  state : State
  arrivals : List Arrival
  sent : List (List Byte)
  chip : Option ChipInfo
  negotiation : Negotiation

/-- `open(transport, timeout)` (R226): a session begins with a block reset (R270, R272), in the state Query (R220). The
arrivals stand for the transport and the timeout (R54). -/
def openSession (arrivals : List Arrival) (s : State) : Session :=
  { state := blockReset s, arrivals := arrivals, sent := [], chip := none, negotiation := .reached .query }

/-- A session ended by an error (R220, R227). -/
def Session.fail (e : SessionError) (x : Session) : Session := { x with negotiation := .failed e }

/-- A session that has entered a state (R220). -/
def Session.enter (p : Phase) (x : Session) : Session := { x with negotiation := .reached p }

/-- An error outside a transfer (R227). -/
def phaseError (p : Phase) (k : ErrorKind) : SessionError :=
  { kind := k, phase := p, region := none, byteOffset := 0 }

/-- An error of a transfer of a region (R227). -/
def regionError (r : Region) (k : ErrorKind) (byteOffset : Nat) : SessionError :=
  { kind := k, phase := r.phase, region := some r, byteOffset := byteOffset }

/-- One round of a session in a state of the negotiation, and what the session does with the reply's outputs (R210). -/
def Session.round (p : Phase) (r : Request) (next : Outputs → Session → Session) (x : Session) : Session :=
  let e := hostRound r (nextArrival x.arrivals) x.state
  let x1 := { x with state := e.state, arrivals := x.arrivals.tail, sent := x.sent ++ e.sent }
  match e.result with
  | .error k => x1.fail (phaseError p k)
  | .ok out => next out x1

/-- One command of a session that parses a reply's payload (R221, R224). -/
def Session.issue (i : Instr) (x : Session) : Session := { x with state := Machine.issue i x.state }

/-- The payload of a data-form response (R181). -/
def responsePayload : Outputs → List Byte
  | .response _ p _ _ => p
  | _ => []

/-- The Chip Info a PARSE_CHIPINFO output (R198, R221). -/
def chipOf : Outputs → Option ChipInfo
  | .chipInfo ca tee multiform bootVersion systemId => some ⟨ca, tee, multiform, bootVersion, systemId⟩
  | _ => none

/-- The value a PARSE_BOARD output (R200, R224). -/
def boardOf : Outputs → Option Word
  | .boardValue v => some v
  | _ => none

/-- A chip the host must not go on with (R222). -/
def unsupported (h : HostCfg) (chip : ChipInfo) : Bool := chip.ca || !h.fastbootV1 chip

/-- The state Query (R221), and the check that follows it at once (R222, C6). Log 9.
DESIGN CHOICE: no SEQ_RESTART comes before the QUERY round, of which R221 is silent and P1 shows one. Log 23. -/
def queryPhase (h : HostCfg) : Session → Session :=
  Session.round .query { kind := .query, payload := h.queryPayload, sq := chosenSq h.queryBoardSeq } fun out x =>
    let x := x.issue (.parseChipInfo (responsePayload out))
    match chipOf (lastOutputs x.state) with
    | none => x.fail (phaseError .query .hostUsage)
    | some chip =>
      let x := { x with chip := some chip }
      if unsupported h chip then x.fail (phaseError .query .unsupportedChip) else x.enter Phase.query.next

/-- The state of the negotiation after the transfer of a region of len bytes: the next one, or Failed (R218, R220). -/
def afterTransfer (kind : Region) (len : Nat) (e : RoundsEnd) : Negotiation :=
  match e.result with
  | none => .reached kind.phase.next
  | some k => .failed (regionError kind k (acknowledgedBytes len e.completed))

/-- The transfer of the first `length` bytes of data as a region (R211, R223, R225), after which the session is in the next
state. Without a negotiated chip, which no session past Query is, or with fewer bytes than length, it is the host's own
error and sends nothing. Log 21. -/
def regionPhase (h : HostCfg) (kind : Region) (offset : ChipInfo → Nat) (length : Nat) (data : List Byte) (x : Session) :
    Session :=
  match x.chip with
  | none => x.fail (regionError kind .hostUsage 0)
  | some chip =>
    if data.length < length then x.fail (regionError kind .hostUsage 0)
    else
      let e := transfer h chip (offset chip) (data.take length) x.arrivals x.state
      { x with
        state := e.state
        arrivals := e.arrivals
        sent := x.sent ++ e.sent
        negotiation := afterTransfer kind length e }

/-- ParamArea (R224): the BOARD round, the value to the caller, then the transfer.
DESIGN CHOICE: no SEQ_RESTART comes before the BOARD round, of which R224 is silent, so that it goes on with the numbering
of the transfer before it. Log 23. -/
def paramPhase (h : HostCfg) (im : Images) : Session → Session :=
  Session.round .paramArea { kind := .board, payload := h.boardPayload, sq := chosenSq h.queryBoardSeq } fun out x =>
    let x := x.issue (.parseBoard (responsePayload out))
    match boardOf (lastOutputs x.state) with
    | none => x.fail (phaseError .paramArea .hostUsage)
    | some v => regionPhase h .paramArea (fun chip => im.paramOffset chip v) im.paramArea.length im.paramArea x

/-- What the host does in each state of the negotiation (R221 to R225). -/
def phaseBody (h : HostCfg) (im : Images) : Phase → Session → Session
  | .query => queryPhase h
  | .headArea => regionPhase h .headArea (fun _ => 0) im.headArea.length im.headArea
  | .auxcode => regionPhase h .auxcode im.auxOffset im.auxcode.length im.auxcode
  | .paramArea => paramPhase h im
  | .boot => regionPhase h .boot (fun _ => 0) im.boot.length im.boot
  | .done => id

/-- A state of the negotiation, run where it is the current one: no state is run twice, out of order or after a failure
(R220). -/
def runPhase (h : HostCfg) (im : Images) (p : Phase) (x : Session) : Session :=
  if x.negotiation = .reached p then phaseBody h im p x else x

/-- The states 1 to 5 in their order (R220, R226, C5). -/
def phaseOrder : List Phase := [.query, .headArea, .auxcode, .paramArea, .boot]

/-! The calls of a session (R226). Each answers with the session it leaves. -/

/-- The `Result` of a call (R226). -/
abbrev CallResult := Except SessionError Unit

/-- What a call that ran answers: the error if it failed (R227). -/
def Session.answer (x : Session) : CallResult :=
  match x.negotiation with
  | .reached _ => .ok ()
  | .failed e => .error e

/-- A call of a session. An ended session does nothing: Failed answers its error (R227), and Done stays Done (R220). A call
that the current state does not allow sends nothing, and is the host's own error, since the order "must not be reordered"
(R220). DESIGN CHOICE: how such a call is answered. Log 22. -/
def Session.call (allowed : Phase → Bool) (region : Option Region) (run : Session → Session) (x : Session) :
    Session × CallResult :=
  match x.negotiation with
  | .failed e => (x, .error e)
  | .reached p =>
    if allowed p then (run x, (run x).answer)
    else
      let e : SessionError := { kind := .hostUsage, phase := p, region := region, byteOffset := 0 }
      (if p = .done then x else x.fail e, .error e)

/-- The caller abandons a session between two calls (R229): it is over at once, and nothing is sent. Between the rounds of
a call the caller does so by the input of the next round. DESIGN CHOICE: a session that is over stays as it is. Log 28. -/
def Session.abandon (x : Session) : Session :=
  match x.negotiation with
  | .failed _ => x
  | .reached p => if p = .done then x else x.fail (phaseError p .abandoned)

/-- `Session.query_chip() -> ChipInfo` (R226), in the state Query only (R220: no backward transitions). -/
def Session.queryChip (h : HostCfg) (x : Session) : Session × Except SessionError ChipInfo :=
  let y := x.call (fun p => p = .query) none (queryPhase h)
  (y.1, y.2 >>= fun _ =>
    match y.1.chip with
    | some chip => .ok chip
    | none => .error (phaseError .query .hostUsage))

/-- `Session.send_region(kind, offset, length, data) -> Result` (R226), in the state of that region only (R220). The kind
changes nothing in the frames: it names the region of an error (log 21).
DESIGN CHOICE: for the parameter area it makes no BOARD round (R224), since the caller gives the offset. Log 24.
DESIGN CHOICE: for the head area and the boot image, at offset 0 in R223 and R225, it takes any offset the caller gives.
Log 27. -/
def Session.sendRegion (h : HostCfg) (kind : Region) (offset length : Nat) (data : List Byte) (x : Session) :
    Session × CallResult :=
  x.call (fun p => p = kind.phase) (some kind) (regionPhase h kind (fun _ => offset) length data)

/-- `Session.run_full_sequence(images) -> Result` (R226): the states in their order, terminal on the first failure (R220).
DESIGN CHOICE: where single calls have done some states, it goes on with the current one, there being no backward
transitions. Log 22. -/
def Session.runFullSequence (h : HostCfg) (im : Images) (x : Session) : Session × CallResult :=
  x.call (fun p => p ≠ .done) none fun x => phaseOrder.foldl (fun x p => runPhase h im p x) x

end Sys2Proof.Machine
end

