-- ==== Sys2Proof/Machine/Launch.lean ====
section
/-! DEFINITION. Launching a block (R6, R68, R273): the configuration is fixed and checked before reset is released, and one
host owns the block. -/

namespace Sys2Proof.Machine

/-- A launch with a number of hosts and a configuration: the reset state, or the reason it is refused (R68, I16).
DESIGN CHOICE: with both a second host and an illegal configuration it names the second host. Log 6. -/
def launch (hosts : Nat) (c : Cfg) : Host.Outcome State Fault Refusal :=
  if hosts > 1 then .refused .moreThanOneHost
  else if c.wf = false then .refused .illegalConfiguration
  else .next (State.resetWith c)

end Sys2Proof.Machine
end

