-- ==== Sys2Proof/Safety.lean ====
section
/-! DEFINITION. The terms that claims about the block are stated in: how a command finishes (R243, R32), what it leaves
unchanged (R248), the invariant of the state, runs of several commands, and how a session of the host ends. -/

namespace Sys2Proof.Machine

/-- The status codes of R241, as numbers. -/
def legalCodes : List Byte := [0x00, 0x01, 0x10, 0x11, 0x12, 0x20, 0x30, 0x40, 0x41, 0x42]

/-- t is s after `finish(code)` with outputs out, as far as CODE, ERR and the result record go (R243, R32). -/
def Finished (s t : State) (code : Byte) (out : Outputs) : Prop :=
  t.code = code ∧ t.err = (s.err || code != 0x00) ∧ t.reply = .result { code := code, outputs := out }

/-- The parts of the state that a command may change besides CODE, ERR and the result record. -/
inductive Part where
  /-- SEQ.CNT. -/
  | seqCnt
  /-- CRC_ACC. -/
  | crcAcc
  /-- STATUS.CSTATE and STATUS.CSTATE_VALID. -/
  | capture
  /-- The TX stream. -/
  | tx
  /-- The RX stream. -/
  | rx
deriving DecidableEq, Repr

/-- A part is the same in two states. -/
def Part.same (s t : State) : Part → Prop
  | .seqCnt => t.seqCnt = s.seqCnt
  | .crcAcc => t.crcAcc = s.crcAcc
  | .capture => t.cstate = s.cstate ∧ t.csValid = s.csValid
  | .tx => t.tx = s.tx
  | .rx => t.rx = s.rx

/-- The frame of a command: every part but those listed is unchanged, and so are the configuration and the host's
pending actions. -/
def FrameBut (changed : List Part) (s t : State) : Prop :=
  t.cfg = s.cfg ∧ t.port = s.port ∧ ∀ p, p ∉ changed → p.same s t

/-- No checksum_state byte is captured (R28, R29). -/
def CaptureCleared (t : State) : Prop := t.cstate = 0x00 ∧ t.csValid = false

/-- The checksum_state byte b is captured (R28, R29). -/
def Captured (t : State) (b : Byte) : Prop := t.cstate = b ∧ t.csValid = true

/-- `csClass` of R180 as a number. -/
def csCode (b : Byte) : Byte := if b = 0xAA then 0x00 else if b = 0x55 then 0x01 else 0x12

/-- What holds of the block between commands. -/
structure BlockInv (s : State) : Prop where
  /-- The configuration meets the constraints of R6 (R273). -/
  cfgLegal : s.cfg.wf = true
  /-- STATUS.CODE holds a code of R241 (R27). -/
  codeLegal : s.code ∈ legalCodes
  /-- An error code never stands with ERR clear (R30). -/
  errShowsCode : s.err = false → s.code = 0x00
  /-- CSTATE reads 0x00 when nothing is captured (R28, R29). -/
  captureEmpty : s.csValid = false → s.cstate = 0x00
  /-- REJECTED records the BAD byte (R241). -/
  rejectedIsBad : s.code = 0x01 → Captured s 0x55
  /-- FRAMING_CSTATE records a byte that is no checksum state (R241). -/
  framingCstateIsNeither : s.code = 0x12 → s.csValid = true ∧ s.cstate ≠ 0xAA ∧ s.cstate ≠ 0x55
  /-- A result record's code is the one in STATUS.CODE (R32). -/
  resultAgrees : ∀ r, s.reply = .result r → r.code = s.code

/-- The commands that write CNT (R21). -/
def writesCnt : Instr → Bool
  | .seqRestart => true
  | .seqNext => true
  | .encReqNext _ _ => true
  | _ => false

/-- The commands that read CNT: those of R143, R145 and R164. -/
def readsCnt : Instr → Bool
  | .seqNext => true
  | .seqPeek => true
  | .encReqNext _ _ => true
  | _ => false

/-- The commands that write CRC_ACC (R23). -/
def writesCrcAcc : Instr → Bool
  | .crcClear => true
  | .crcUpdate _ => true
  | _ => false

/-- The commands that read CRC_ACC: those of R123 and R124. -/
def readsCrcAcc : Instr → Bool
  | .crcUpdate _ => true
  | .crcFinal => true
  | _ => false

/-- The encoder commands (R52). -/
def isEncoder : Instr → Bool
  | .encReq _ _ _ => true
  | .encReqNext _ _ => true
  | .encRspData _ _ _ => true
  | .encRspStatus _ => true
  | _ => false

/-- The frame a command emits when it finishes 0x00 (R161, R164, R167, R169); none for a command that is no encoder. -/
def emittedFrame : Instr → State → List Byte
  | .encReq t sq p, s => reqFrame s.cfg t sq p
  | .encReqNext t p, s => reqFrame s.cfg t (seq16 s.seqCnt) p
  | .encRspData t p cs, s => rspData s.cfg t p cs
  | .encRspStatus cs, _ => rspStatus cs
  | _, _ => []

/-- The commands that read RX (R53, C11). -/
def readsRx : Instr → Bool
  | .decRsp _ => true
  | .decReq _ => true
  | _ => false

/-- The commands that write CSTATE and CSTATE_VALID (R28, R29). -/
def writesCapture : Instr → Bool
  | .decRsp _ => true
  | .csClassify _ => true
  | _ => false

/-- Commands issued one after another: the state after the last. -/
def runCommands (is : List Instr) (s : State) : State := is.foldl (fun s i => issue i s) s

/-- Commands issued one after another: the outputs of each. -/
def commandOutputs : List Instr → State → List Outputs
  | [], _ => []
  | i :: is, s => lastOutputs (issue i s) :: commandOutputs is (issue i s)

/-- The error a round with a status-only reply ends in, by what arrives (R181, R228, R245) or that the caller abandons the
session (R229); none for the one byte 0xAA. -/
def ackFailure : Arrival → Option ErrorKind
  | .ioFailure => some .transportError
  | .abandoned => some .abandoned
  | .abandonedInFlight _ => some .abandoned
  | .bytes [] => some .timeout
  | .bytes (b :: rest) =>
    if b = 0x55 then some .rejectedByTarget
    else if b = 0xAA ∧ rest = [] then none
    else some .framingError

/-- An error has ended a session (R227): every later call leaves the session as it is and answers that error. -/
def EndedBy (x : Session) (e : SessionError) : Prop :=
  x.negotiation = .failed e ∧
  (∀ h : HostCfg, x.queryChip h = (x, .error e)) ∧
  (∀ (h : HostCfg) (kind : Region) (offset length : Nat) (data : List Byte),
    x.sendRegion h kind offset length data = (x, .error e)) ∧
  (∀ (h : HostCfg) (im : Images), x.runFullSequence h im = (x, .error e))

/-- R190: f, of length 7 + n, is a valid request frame for payload length n. -/
def ValidRequest (c : Cfg) (n : Nat) (f : List Byte) : Prop :=
  f.length = 7 + n ∧
  isReq c (byteAt f 0) = true ∧
  de16 (slice f 3 4) c.seqOrder = ~~~(de16 (slice f 1 2) c.seqOrder) ∧
  de16 (slice f (5 + n) (6 + n)) c.crcOrder = crc16 c (slice f 0 (4 + n))

end Sys2Proof.Machine
end

