-- ==== Sys2Proof/Certificates/Slice0/Obligations.lean ====
section
/-! DEFINITION. The statements for the provers. Each docstring names the rule it formalises; OBLIGATIONS.json lists them.
A statement holds for every configuration, since the configuration is a field of the state: it names one only where it
needs a legal one (R6). Status codes and literals stand as the numbers of R6 and R241. -/

open Sys2Proof Sys2Proof.Machine

/-! The CRC engine. -/

/-- R120: reflection mirrors the bits, and a step XORs the input byte into the high byte and shifts eight times, most
significant bit first. -/
def Obligations.CrcEngineShiftsMsbFirst : Prop :=
  (∀ (b : Byte) (i : Nat), i < 8 → (reflect8 b).getLsbD i = b.getLsbD (7 - i)) ∧
  (∀ (v : Half) (i : Nat), i < 16 → (reflect16 v).getLsbD i = v.getLsbD (15 - i)) ∧
  (∀ (c : Cfg) (v : Half) (b : Byte),
    crcStep c v b =
      (fun r : Half => if r.msb then (r <<< 1) ^^^ c.crcPoly else r <<< 1)^[8]
        (v ^^^ ((if c.crcRefIn then reflect8 b else b).setWidth 16 <<< 8))) ∧
  (∀ (c : Cfg) (v : Half), crcFinal c v = (if c.crcRefOut then reflect16 v else v) ^^^ c.crcXorOut)

/-- R122. -/
def Obligations.CrcClearLoadsInit : Prop :=
  encode .crcClear = [0x00] ∧
  ∀ s : State, ∃ t, exec .crcClear s = .next t ∧
    Finished s t 0x00 .absent ∧ t.crcAcc = s.cfg.crcInit ∧ FrameBut [.crcAcc] s t

/-- R123, its pseudocode. Its corner-case remark is CrcUpdateZeroChangesNonzeroAcc. -/
def Obligations.CrcUpdateStepsAccumulator : Prop :=
  ∀ b : Byte, encode (.crcUpdate b) = [0x01, b] ∧
  ∀ s : State, ∃ t, exec (.crcUpdate b) s = .next t ∧
    Finished s t 0x00 .absent ∧ t.crcAcc = crcStep s.cfg s.crcAcc b ∧ FrameBut [.crcAcc] s t

/-- The corner-case remark of R123 (log 16), read literally: a zero byte changes every non-zero accumulator. It is false: a
polynomial such as EX's has a factor x + 1, and then some non-zero value is left as it is. -/
def Obligations.CrcUpdateZeroChangesNonzeroAcc : Prop :=
  ∀ s t : State, s.cfg.wf = true → s.crcAcc ≠ 0 → exec (.crcUpdate 0x00) s = .next t → t.crcAcc ≠ s.crcAcc

/-- R124. -/
def Obligations.CrcFinalOutputsFinishedChecksum : Prop :=
  encode .crcFinal = [0x02] ∧
  ∀ s : State, ∃ t, exec .crcFinal s = .next t ∧
    Finished s t 0x00 (.checksum (crcFinal s.cfg s.crcAcc)) ∧ FrameBut [] s t

/-- R125. -/
def Obligations.CrcComputeOutputsChecksum : Prop :=
  ∀ d : List Byte, encode (.crcCompute d) = 0x03 :: (ser16 (BitVec.ofNat 16 d.length) .le ++ d) ∧
  ∀ s : State, ∃ t, exec (.crcCompute d) s = .next t ∧ FrameBut [] s t ∧
    if d.length > 1031 then Finished s t 0x42 .absent
    else Finished s t 0x00 (.checksum (crcFinal s.cfg (d.foldl (crcStep s.cfg) s.cfg.crcInit)))

/-- R126. -/
def Obligations.CrcCheckComparesChecksum : Prop :=
  ∀ (d : List Byte) (v : Half),
  encode (.crcCheck d v) = 0x04 :: (ser16 (BitVec.ofNat 16 d.length) .le ++ d ++ ser16 v .le) ∧
  ∀ s : State, ∃ t, exec (.crcCheck d v) s = .next t ∧ FrameBut [] s t ∧
    if d.length > 1031 then Finished s t 0x42 .absent
    else Finished s t (if crc16 s.cfg d = v then 0x00 else 0x20) (.checksum (crc16 s.cfg d))

/-- R127 (the spec's own inference, marked derived): incremental and whole-string checksums agree. -/
def Obligations.IncrementalCrcAgreesWithWhole : Prop :=
  ∀ (s : State) (d : List Byte),
    lastOutputs (runCommands ([.crcClear] ++ d.map .crcUpdate ++ [.crcFinal]) s) = .checksum (crc16 s.cfg d) ∧
    (d.length ≤ 1031 → lastOutputs (runCommands [.crcCompute d] s) = .checksum (crc16 s.cfg d))

/-- R128 (from general knowledge, as the spec marks it): the 256-entry table form of a step gives the same value. -/
def Obligations.CrcTableFormAgrees : Prop :=
  ∀ (c : Cfg) (v : Half) (b : Byte),
    let table : Byte → Half := fun i => crcShifts c 8 (i.setWidth 16 <<< 8)
    let x : Byte := if c.crcRefIn then reflect8 b else b
    crcStep c v b = (v <<< 8) ^^^ table ((v >>> 8).setWidth 8 ^^^ x)

/-! The sequence counter. -/

/-- R141. -/
def Obligations.SeqRestartLoadsSeqInit : Prop :=
  encode .seqRestart = [0x10] ∧
  ∀ s : State, ∃ t, exec .seqRestart s = .next t ∧
    Finished s t 0x00 .absent ∧ t.seqCnt = 0 ∧ FrameBut [.seqCnt] s t

/-- R143. -/
def Obligations.SeqNextOutputsThenIncrements : Prop :=
  encode .seqNext = [0x11] ∧
  ∀ s : State, ∃ t, exec .seqNext s = .next t ∧
    Finished s t 0x00 (.seqPair (s.seqCnt.setWidth 16) (~~~(s.seqCnt.setWidth 16))) ∧
    t.seqCnt.toNat = (s.seqCnt.toNat + 1) % 256 ∧ FrameBut [.seqCnt] s t

/-- R145. -/
def Obligations.SeqPeekOutputsWithoutTaking : Prop :=
  encode .seqPeek = [0x12] ∧
  ∀ s : State, ∃ t, exec .seqPeek s = .next t ∧
    Finished s t 0x00 (.seqPair (s.seqCnt.setWidth 16) (~~~(s.seqCnt.setWidth 16))) ∧ FrameBut [] s t

/-- R146. -/
def Obligations.SeqCheckComparesAllSixteenBits : Prop :=
  ∀ sq c : Half, encode (.seqCheck sq c) = 0x13 :: (ser16 sq .le ++ ser16 c .le) ∧
  ∀ s : State, ∃ t, exec (.seqCheck sq c) s = .next t ∧
    Finished s t (if c = ~~~sq then 0x00 else 0x30) .absent ∧ FrameBut [] s t

/-- R144 (the spec's own inference, marked derived): 256 SEQ_NEXT commands output every counter value once, in order, and leave CNT as it was. -/
def Obligations.SeqNextWrapsAfter256 : Prop :=
  (∀ s : State,
    commandOutputs (List.replicate 256 .seqNext) s =
      (List.range 256).map (fun k =>
        .seqPair ((s.seqCnt + BitVec.ofNat 8 k).setWidth 16) (~~~((s.seqCnt + BitVec.ofNat 8 k).setWidth 16))) ∧
    ((List.range 256).map (fun k => s.seqCnt + BitVec.ofNat 8 k)).Nodup ∧
    (runCommands (List.replicate 256 .seqNext) s).seqCnt = s.seqCnt) ∧
  (∀ s : State, (runCommands (.seqRestart :: List.replicate 256 .seqNext) s).seqCnt = 0)

/-- R22 (the spec's own inference, marked derived): SEQ_NEXT reaches every counter value within 255 steps. -/
def Obligations.SeqNextReachesEveryValue : Prop :=
  ∀ (s : State) (v : Byte), ∃ k, k ≤ 255 ∧ (runCommands (List.replicate k .seqNext) s).seqCnt = v

/-- R147 (the spec's own inference, marked derived): the complement of a counter value. -/
def Obligations.ComplementOfCounterValue : Prop :=
  ∀ c : Byte, cmp16 (seq16 c) = 0xFF00 ||| (255 - c.setWidth 16) ∧ cmp16 (seq16 c) = ~~~(c.setWidth 16)

/-! The encoder. -/

/-- R161. -/
def Obligations.EncReqEmitsRequestFrame : Prop :=
  ∀ (t : Byte) (sq : Half) (p : List Byte),
  encode (.encReq t sq p) = [0x20, t] ++ ser16 sq .le ++ ser16 (BitVec.ofNat 16 p.length) .le ++ p ∧
  ∀ s : State, ∃ u, exec (.encReq t sq p) s = .next u ∧
    if kindOf s.cfg t = none then Finished s u 0x41 .absent ∧ FrameBut [] s u
    else if p.length > 1024 then Finished s u 0x42 .absent ∧ FrameBut [] s u
    else if kindOf s.cfg t = some .data ∧ p.length ≠ 1024 then Finished s u 0x42 .absent ∧ FrameBut [] s u
    else Finished s u 0x00 (.frameLen (BitVec.ofNat 16 (7 + p.length))) ∧
      u.tx = s.tx ++ reqFrame s.cfg t sq p ∧ FrameBut [.tx] s u

/-- R164. -/
def Obligations.EncReqNextTakesCounterValue : Prop :=
  ∀ (t : Byte) (p : List Byte),
  encode (.encReqNext t p) = [0x21, t] ++ ser16 (BitVec.ofNat 16 p.length) .le ++ p ∧
  ∀ s : State, ∃ u, exec (.encReqNext t p) s = .next u ∧
    if kindOf s.cfg t = none then Finished s u 0x41 .absent ∧ FrameBut [] s u
    else if p.length > 1024 then Finished s u 0x42 .absent ∧ FrameBut [] s u
    else if kindOf s.cfg t = some .data ∧ p.length ≠ 1024 then Finished s u 0x42 .absent ∧ FrameBut [] s u
    else Finished s u 0x00 (.frameLenSeq (BitVec.ofNat 16 (7 + p.length)) (s.seqCnt.setWidth 16)) ∧
      u.seqCnt.toNat = (s.seqCnt.toNat + 1) % 256 ∧
      u.tx = s.tx ++ reqFrame s.cfg t (s.seqCnt.setWidth 16) p ∧ FrameBut [.seqCnt, .tx] s u

/-- R165 (the spec's own inference, marked derived): ENC_REQ_NEXT is SEQ_NEXT then ENC_REQ, except that a failing one does not advance the counter. -/
def Obligations.EncReqNextIsSeqNextThenEncReq : Prop :=
  ∀ (s : State) (t : Byte) (p : List Byte),
    let one := runCommands [.encReqNext t p] s
    let two := runCommands [.seqNext, .encReq t (s.seqCnt.setWidth 16) p] s
    if (kindOf s.cfg t).isSome ∧ p.length ≤ 1024 ∧ (kindOf s.cfg t = some .data → p.length = 1024) then
      { one with reply := .nothing } = { two with reply := .nothing }
    else one.seqCnt = s.seqCnt ∧ two.seqCnt = s.seqCnt + 1

/-- R163 (the spec's own inference, marked derived): a successful request encoder makes TX grow by 7 + len(p) bytes, 1031 for a DATA frame. -/
def Obligations.RequestEncodersGrowTx : Prop :=
  ∀ (s u : State) (t : Byte) (sq : Half) (p : List Byte),
    exec (.encReq t sq p) s = .next u ∨ exec (.encReqNext t p) s = .next u → u.code = 0x00 →
    u.tx.length = s.tx.length + (7 + p.length) ∧
    (kindOf s.cfg t = some .data → u.tx.length = s.tx.length + 1031)

/-- R90: the bytes of a request frame, by offset. -/
def Obligations.RequestFrameLayout : Prop :=
  ∀ (c : Cfg) (k : ReqType) (sq : Half) (p : List Byte),
    let f := reqFrame c (c.typeCode k) sq p
    let n := p.length
    f.length = 7 + n ∧ byteAt f 0 = c.typeCode k ∧
    slice f 1 2 = ser16 sq c.seqOrder ∧ slice f 3 4 = ser16 (~~~sq) c.seqOrder ∧
    slice f 5 (4 + n) = p ∧
    slice f (5 + n) (6 + n) = ser16 (crc16 c (slice f 0 (4 + n))) c.crcOrder

/-- R167. -/
def Obligations.EncRspDataEmitsDataForm : Prop :=
  ∀ (t : Byte) (p : List Byte) (cs : Byte),
  encode (.encRspData t p cs) = [0x22, t] ++ ser16 (BitVec.ofNat 16 p.length) .le ++ p ++ [cs] ∧
  ∀ s : State, ∃ u, exec (.encRspData t p cs) s = .next u ∧
    if kindOf s.cfg t = none then Finished s u 0x41 .absent ∧ FrameBut [] s u
    else if kindOf s.cfg t ≠ some .query ∧ kindOf s.cfg t ≠ some .board then
      Finished s u 0x41 .absent ∧ FrameBut [] s u
    else if p.length ≠ (if kindOf s.cfg t = some .query then 11 else 7) then
      Finished s u 0x42 .absent ∧ FrameBut [] s u
    else Finished s u 0x00 (.frameLen (BitVec.ofNat 16 (p.length + 4))) ∧
      u.tx = s.tx ++ rspData s.cfg t p cs ∧ FrameBut [.tx] s u

/-- R169. -/
def Obligations.EncRspStatusEmitsOneByte : Prop :=
  ∀ cs : Byte, encode (.encRspStatus cs) = [0x23, cs] ∧
  ∀ s : State, ∃ u, exec (.encRspStatus cs) s = .next u ∧
    Finished s u 0x00 (.frameLen 1) ∧ u.tx = s.tx ++ [cs] ∧ FrameBut [.tx] s u

/-- R166, with the forms of R95: the form of each kind's response, and the bytes of a data-form response, by offset. -/
def Obligations.ResponseFrameLayout : Prop :=
  (rspForm .query = .dataForm 11 ∧ rspForm .board = .dataForm 7 ∧
    rspForm .head = .statusOnly ∧ rspForm .data = .statusOnly ∧ rspForm .tail = .statusOnly) ∧
  (∀ cs : Byte, rspStatus cs = [cs]) ∧
  (∀ (c : Cfg) (t : Byte) (p : List Byte) (cs : Byte),
    let f := rspData c t p cs
    let n := p.length
    f.length = n + 4 ∧ byteAt f 0 = t ||| 0x80 ∧ slice f 1 n = p ∧
    slice f (n + 1) (n + 2) =
      ser16 (crc16 c (if c.rspCrcSpan = .typeAndPayload then slice f 0 n else slice f 1 n)) c.crcOrder ∧
    byteAt f (n + 3) = cs)

/-! The decoder. -/

/-- R181: DEC_RSP on every operand and every RX, check by check. -/
def Obligations.DecRspDecodesReply : Prop :=
  ∀ t : Byte, encode (.decRsp t) = [0x30, t] ∧
  ∀ s : State, ∃ u, exec (.decRsp t) s = .next u ∧
    match kindOf s.cfg t with
    | none => Finished s u 0x41 .absent ∧ CaptureCleared u ∧ FrameBut [.capture] s u
    | some k =>
      match rspForm k with
      | .statusOnly =>
        match s.rx with
        | [] => Finished s u 0x10 .absent ∧ CaptureCleared u ∧ FrameBut [.capture] s u
        | b :: rest =>
          Finished s u (csCode b) (.stateByte b) ∧ Captured u b ∧ u.rx = rest ∧ FrameBut [.capture, .rx] s u
      | .dataForm n =>
        if s.rx.length < n + 4 then
          Finished s u 0x10 .absent ∧ CaptureCleared u ∧ u.rx = [] ∧ FrameBut [.capture, .rx] s u
        else
          let rt := byteAt s.rx 0
          let c := de16 (slice s.rx (n + 1) (n + 2)) s.cfg.crcOrder
          let b := byteAt s.rx (n + 3)
          let span := if s.cfg.rspCrcSpan = .typeAndPayload then slice s.rx 0 n else slice s.rx 1 n
          let code : Byte :=
            if rt ≠ t ||| 0x80 then 0x11
            else if b ≠ 0xAA ∧ b ≠ 0x55 then 0x12
            else if crc16 s.cfg span ≠ c then 0x20
            else csCode b
          Finished s u code (.response rt (slice s.rx 1 n) c b) ∧ Captured u b ∧ u.rx = s.rx.drop (n + 4) ∧
            FrameBut [.capture, .rx] s u

/-- R192: DEC_REQ on every operand and every RX, check by check. -/
def Obligations.DecReqDecodesRequest : Prop :=
  ∀ m : Half, encode (.decReq m) = 0x31 :: ser16 m .le ∧
  ∀ s : State, ∃ u, exec (.decReq m) s = .next u ∧
    let n := m.toNat
    if n > 1024 then Finished s u 0x42 .absent ∧ FrameBut [] s u
    else if s.rx.length < n + 7 then Finished s u 0x10 .absent ∧ u.rx = [] ∧ FrameBut [.rx] s u
    else
      let t := byteAt s.rx 0
      let sq := de16 (slice s.rx 1 2) s.cfg.seqOrder
      let sc := de16 (slice s.rx 3 4) s.cfg.seqOrder
      let c := de16 (slice s.rx (5 + n) (6 + n)) s.cfg.crcOrder
      let code : Byte :=
        if isReq s.cfg t = false then 0x11
        else if sc ≠ ~~~sq then 0x30
        else if crc16 s.cfg (slice s.rx 0 (4 + n)) ≠ c then 0x20
        else 0x00
      Finished s u code (.request t sq sc (slice s.rx 5 (4 + n)) c) ∧ u.rx = s.rx.drop (n + 7) ∧ FrameBut [.rx] s u

/-- R190, with R192: DEC_REQ finishes 0x00 on a whole frame exactly when the frame is valid. -/
def Obligations.DecReqAcceptsExactlyValidFrames : Prop :=
  ∀ (s : State) (m : Half) (f rest : List Byte),
    m.toNat ≤ 1024 → f.length = 7 + m.toNat → s.rx = f ++ rest →
    ∃ u, exec (.decReq m) s = .next u ∧ u.rx = rest ∧ (u.code = 0x00 ↔ ValidRequest s.cfg m.toNat f)

/-- R191 (its last sentence is marked derived): a corruption of exactly one of the two sequence fields of a valid frame is caught, whatever the CRC. -/
def Obligations.SequenceCorruptionIsCaught : Prop :=
  ∀ (s : State) (m : Half) (f g rest : List Byte) (at1 : Nat),
    m.toNat ≤ 1024 → ValidRequest s.cfg m.toNat f → at1 = 1 ∨ at1 = 3 → g.length = f.length →
    (∀ i, i ≠ at1 → i ≠ at1 + 1 → byteAt g i = byteAt f i) → slice g at1 (at1 + 1) ≠ slice f at1 (at1 + 1) →
    s.rx = g ++ rest →
    ∃ u, exec (.decReq m) s = .next u ∧ u.code = 0x30

/-- R193 (the spec's own inference, marked derived): the round-trip law of requests. The host takes the emitted frame from TX, puts it into the empty RX, and
DEC_REQ recovers what ENC_REQ was given. -/
def Obligations.RequestRoundTrip : Prop :=
  ∀ (s s1 : State) (t : Byte) (sq : Half) (p : List Byte),
    s.tx = [] → s.rx = [] → exec (.encReq t sq p) s = .next s1 → s1.code = 0x00 →
    ∃ f s2 s3 c, hostTake (7 + p.length) s1 = .next s2 ∧ s2.reply = .taken f ∧ s2.tx = [] ∧
      exec (.decReq (BitVec.ofNat 16 p.length)) (hostPut f s2) = .next s3 ∧
      s3.code = 0x00 ∧ s3.reply = .result { code := 0x00, outputs := .request t sq (~~~sq) p c } ∧ s3.rx = []

/-- R194 (the spec's own inference, marked derived): the round-trip law of responses, data form and status-only. -/
def Obligations.ResponseRoundTrip : Prop :=
  (∀ (s s1 : State) (t : Byte) (p : List Byte) (cs : Byte),
    s.tx = [] → s.rx = [] → cs = 0xAA ∨ cs = 0x55 → exec (.encRspData t p cs) s = .next s1 → s1.code = 0x00 →
    ∃ f s2 s3 c, hostTake (p.length + 4) s1 = .next s2 ∧ s2.reply = .taken f ∧
      exec (.decRsp t) (hostPut f s2) = .next s3 ∧
      s3.reply = .result { code := csCode cs, outputs := .response (t ||| 0x80) p c cs } ∧
      Captured s3 cs ∧ s3.rx = []) ∧
  (∀ (s s1 : State) (t : Byte) (k : ReqType) (cs : Byte),
    s.tx = [] → s.rx = [] → kindOf s.cfg t = some k → rspForm k = .statusOnly →
    exec (.encRspStatus cs) s = .next s1 →
    ∃ f s2 s3, hostTake 1 s1 = .next s2 ∧ s2.reply = .taken f ∧
      exec (.decRsp t) (hostPut f s2) = .next s3 ∧
      s3.reply = .result { code := csCode cs, outputs := .stateByte cs } ∧ Captured s3 cs ∧ s3.rx = [])

/-- From R196. That no output is recorded, on 0x01 and 0x12 too, rests on log 15 (DEDUCED): R241's column lists cstate for
those codes, and the model reads it as the field STATUS.CSTATE. -/
def Obligations.CsClassifyCapturesOperand : Prop :=
  ∀ b : Byte, encode (.csClassify b) = [0x32, b] ∧
  ∀ s : State, ∃ u, exec (.csClassify b) s = .next u ∧
    Finished s u (csCode b) .absent ∧ Captured u b ∧ FrameBut [.capture] s u

/-- R198. -/
def Obligations.ParseChipInfoSplitsFields : Prop :=
  ∀ p : List Byte, encode (.parseChipInfo p) = 0x33 :: (ser16 (BitVec.ofNat 16 p.length) .le ++ p) ∧
  ∀ s : State, ∃ u, exec (.parseChipInfo p) s = .next u ∧ FrameBut [] s u ∧
    if p.length ≠ 11 then Finished s u 0x42 .absent
    else Finished s u 0x00 (.chipInfo ((byteAt p 0).getLsbD s.cfg.caBit) ((byteAt p 0).getLsbD s.cfg.teeBit)
      ((byteAt p 0).getLsbD s.cfg.multiformBit)
      (byteAt p 3 ++ byteAt p 4 ++ byteAt p 5 ++ byteAt p 6) (byteAt p 7 ++ byteAt p 8 ++ byteAt p 9 ++ byteAt p 10))

/-- R200. -/
def Obligations.ParseBoardExtractsValue : Prop :=
  ∀ p : List Byte, encode (.parseBoard p) = 0x34 :: (ser16 (BitVec.ofNat 16 p.length) .le ++ p) ∧
  ∀ s : State, ∃ u, exec (.parseBoard p) s = .next u ∧ FrameBut [] s u ∧
    if p.length ≠ 7 then Finished s u 0x42 .absent
    else Finished s u 0x00 (.boardValue (if s.cfg.boardOrder = .be
      then byteAt p 3 ++ byteAt p 4 ++ byteAt p 5 ++ byteAt p 6
      else byteAt p 6 ++ byteAt p 5 ++ byteAt p 4 ++ byteAt p 3))

/-- From R100's first sentence, for the payload decoders: reserved bytes and undefined flag bits change nothing. -/
def Obligations.ReservedFieldsAreIgnored : Prop :=
  (∀ (s : State) (p q : List Byte), p.length = 11 → q.length = 11 →
    (∀ i, i = s.cfg.caBit ∨ i = s.cfg.teeBit ∨ i = s.cfg.multiformBit →
      (byteAt p 0).getLsbD i = (byteAt q 0).getLsbD i) →
    (∀ i, 3 ≤ i → byteAt p i = byteAt q i) → exec (.parseChipInfo p) s = exec (.parseChipInfo q) s) ∧
  (∀ (s : State) (p q : List Byte), p.length = 7 → q.length = 7 →
    (∀ i, 3 ≤ i → byteAt p i = byteAt q i) → exec (.parseBoard p) s = exec (.parseBoard q) s)

/-! Command messages. -/

/-- From R80, R82 and R83: the decoder recovers every command from its message, with every operand at every value. -/
def Obligations.DecodeRecoversEncodedCommand : Prop :=
  ∀ i : Instr, i.wf = true → decode (encode i) = .ok i

/-- From R80, R84 and R85: a decoded message is the message of its command, of exactly the length its operands need. -/
def Obligations.DecodedMessageIsItsCommandsMessage : Prop :=
  ∀ (msg : List Byte) (i : Instr), decode msg = .ok i →
    i.wf = true ∧ encode i = msg ∧ msg.length = 1 + (i.operands.map Operand.size).sum

/-- R84: a message that is no command's finishes with 0x40 and changes only STATUS. -/
def Obligations.MalformedMessageChangesOnlyStatus : Prop :=
  ∀ (s : State) (msg : List Byte), (∀ i : Instr, i.wf = true → encode i ≠ msg) →
    ∃ u, perform (.command msg) s = .next u ∧ Finished s u 0x40 .absent ∧ FrameBut [] s u

/-- R81: the units 0x4 to 0xF are reserved, and each command's code has its unit in bits 7:4. -/
def Obligations.UnitsOfCommandCodes : Prop :=
  (∀ (c : Byte) (rest : List Byte), 4 ≤ (c >>> 4).toNat → decode (c :: rest) = .error (.reservedCode c)) ∧
  (∀ r ∈ crcRows, r.code >>> 4 = 0) ∧ (∀ r ∈ seqRows, r.code >>> 4 = 1) ∧
  (∀ r ∈ encRows, r.code >>> 4 = 2) ∧ (∀ r ∈ decRows, r.code >>> 4 = 3)

/-- From R83: message bytes written out from the command map decode to their commands. -/
def Obligations.SampleMessagesDecode : Prop :=
  decode [0x01, 0x31] = .ok (.crcUpdate 0x31) ∧
  decode [0x04, 0x02, 0x00, 0x31, 0x32, 0xC3, 0x31] = .ok (.crcCheck [0x31, 0x32] 0x31C3) ∧
  decode [0x13, 0x34, 0x12, 0xCB, 0xED] = .ok (.seqCheck 0x1234 0xEDCB) ∧
  decode [0x20, 0x01, 0x34, 0x12, 0x01, 0x00, 0xC8] = .ok (.encReq 0x01 0x1234 [0xC8]) ∧
  decode [0x22, 0x05, 0x02, 0x00, 0x10, 0x20, 0xAA] = .ok (.encRspData 0x05 [0x10, 0x20] 0xAA) ∧
  decode [0x31, 0x01, 0x04] = .ok (.decReq 0x0401)

/-! The machine. -/

/-- From R2 and R80: a command message that decodes runs exactly that command. That a step takes the message from the head
of the host's pending actions, and off that list, is the model's choice (log 3). -/
def Obligations.StepRunsDecodedCommand : Prop :=
  ∀ (s : State) (msg : List Byte) (rest : List HostAction) (i : Instr),
    s.port = .command msg :: rest → decode msg = .ok i → step s = exec i { s with port := rest }

/-- The model's choice (log 3): a step performs the host's next action, and with none pending the block waits (R271),
unchanged. -/
def Obligations.StepPerformsNextAction : Prop :=
  (∀ s : State, s.port = [] → step s = .next s) ∧
  (∀ (s : State) (a : HostAction) (rest : List HostAction), s.port = a :: rest → step s = perform a { s with port := rest })

/-- From R27, R30, R32 and R241: every command completes with a code of the list, which the result record repeats, and leaves the
configuration and the host's pending actions. -/
def Obligations.EveryCommandFinishesWithListedCode : Prop :=
  ∀ (i : Instr) (s : State), ∃ u out, exec i s = .next u ∧ u.code ∈ legalCodes ∧ Finished s u u.code out ∧
    u.cfg = s.cfg ∧ u.port = s.port

/-- The invariant of the block (Safety.lean; its parts rest on R6, R27, R28, R29, R30, R32 and R241) is kept by every step. -/
def Obligations.StepKeepsBlockInv : Prop :=
  ∀ s t : State, BlockInv s → step s = .next t → BlockInv t

/-- The invariant of the block holds after reset. -/
def Obligations.ResetHasBlockInv : Prop := BlockInv State.reset

/-- R30: ERR is sticky; nothing but reset clears it, and a command message that finishes with an error code sets it. -/
def Obligations.ErrIsStickyUntilReset : Prop :=
  (∀ (a : HostAction) (s t : State), perform a s = .next t → s.err = true → t.err = true ∨ a = .reset) ∧
  (∀ (msg : List Byte) (s t : State), perform (.command msg) s = .next t → t.code ≠ 0x00 → t.err = true)

/-- From R21, R23, R28, R29, R52 and R53: only the commands those rules name write each part of the state. -/
def Obligations.CommandsWriteOnlyTheirParts : Prop :=
  ∀ (i : Instr) (s u : State), exec i s = .next u →
    (writesCnt i = false → u.seqCnt = s.seqCnt) ∧
    (writesCrcAcc i = false → u.crcAcc = s.crcAcc) ∧
    (writesCapture i = false → u.cstate = s.cstate ∧ u.csValid = s.csValid) ∧
    (isEncoder i = false → u.tx = s.tx) ∧
    (readsRx i = false → u.rx = s.rx)

/-- From R23: no command but CRC_UPDATE and CRC_FINAL reads the accumulator. -/
def Obligations.CrcAccIsPrivate : Prop :=
  ∀ (i : Instr) (s u : State) (v : Half), readsCrcAcc i = false → exec i s = .next u →
    exec i { s with crcAcc := v } = .next { u with crcAcc := if writesCrcAcc i then u.crcAcc else v }

/-- From R148 and R162: no command but SEQ_NEXT, SEQ_PEEK and ENC_REQ_NEXT reads the counter. -/
def Obligations.CounterIsNeverReadByOthers : Prop :=
  ∀ (i : Instr) (s u : State) (v : Byte), readsCnt i = false → exec i s = .next u →
    exec i { s with seqCnt := v } = .next { u with seqCnt := if writesCnt i then u.seqCnt else v }

/-- From R52: on 0x00 a command appends its frame to TX, whole: `reqFrame` for the request encoders, `rspData` or `rspStatus`
for the response encoders, nothing for any other command. On an error it appends nothing. No command reads TX. -/
def Obligations.TxIsAppendedWholeAndNeverRead : Prop :=
  ∀ (i : Instr) (s u : State), exec i s = .next u →
    let f := if u.code = 0x00 then emittedFrame i s else []
    u.tx = s.tx ++ f ∧ (isEncoder i = false → f = []) ∧
      ∀ x, exec i { s with tx := x } = .next { u with tx := x ++ f }

/-- R248 (the spec's own inference, marked derived): a command that reports an error has changed nothing but STATUS, the RX bytes a decoder took and the captured
state byte. -/
def Obligations.ErrorsArePrecise : Prop :=
  ∀ (i : Instr) (s u : State), exec i s = .next u → u.code ≠ 0x00 →
    u.seqCnt = s.seqCnt ∧ u.crcAcc = s.crcAcc ∧ u.tx = s.tx ∧ (∃ k, u.rx = s.rx.drop k) ∧
    (readsRx i = false → u.rx = s.rx) ∧
    (writesCapture i = false → u.cstate = s.cstate ∧ u.csValid = s.csValid)

/-- R31, with the fields of R21 and R26: what the register read port returns, field by field, and that a read changes no state of the block. -/
def Obligations.ReadRegReturnsRegisterFields : Prop :=
  ∀ (s : State) (n : Nat),
    ∃ w, perform (.readReg n) s = .next { s with reply := .word w } ∧
      if n = 0 then w.toNat = s.seqCnt.toNat
      else if n = 1 then w.toNat = s.crcAcc.toNat
      else if n = 2 then
        w.extractLsb' 0 8 = s.code ∧ w.extractLsb' 8 8 = s.cstate ∧ w.getLsbD 16 = s.csValid ∧
          w.getLsbD 17 = s.err ∧ w.extractLsb' 18 14 = 0
      else w = 0

/-- R55: hostPut appends to RX, hostTake removes from the front of TX, and neither changes a register. -/
def Obligations.HostStreamActions : Prop :=
  (∀ (s : State) (bs : List Byte), perform (.hostPut bs) s = .next { s with rx := s.rx ++ bs, reply := .nothing }) ∧
  (∀ (s : State) (f g : List Byte), s.tx = f ++ g →
    perform (.hostTake f.length) s = .next { s with tx := g, reply := .taken f })

/-- The model's choice (log 5) where R55 says nothing: a hostTake beyond TX stops by name. -/
def Obligations.HostTakeBeyondTxStops : Prop :=
  ∀ (s : State) (n : Nat), s.tx.length < n → perform (.hostTake n) s = .fault .takeBeyondTx

/-- R270: a block reset sets every state field to its reset value, and the machine starts in that state. -/
def Obligations.ResetSetsEveryField : Prop :=
  ∀ s : State, (s = State.reset ∨ ∃ r, perform .reset r = .next s) →
    s.seqCnt = 0 ∧ s.crcAcc = s.cfg.crcInit ∧ s.code = 0x00 ∧ s.cstate = 0x00 ∧ s.csValid = false ∧ s.err = false ∧
    s.tx = [] ∧ s.rx = [] ∧ readRegValue s 0 = 0 ∧ readRegValue s 2 = 0

/-- From R6 and R91: what a legal configuration is, and that under one each type code names its kind and no response type is a
request type. -/
def Obligations.LegalConfigurationNamesKinds : Prop :=
  ∀ c : Cfg,
    (c.wf = true ↔ Function.Injective c.typeCode ∧ (∀ k, (c.typeCode k).getLsbD 7 = false) ∧
      c.caBit ≠ c.teeBit ∧ c.caBit ≠ c.multiformBit ∧ c.teeBit ≠ c.multiformBit) ∧
    (c.wf = true → ∀ (t : Byte) (k : ReqType), (kindOf c t = some k ↔ t = c.typeCode k) ∧
      kindOf c (rspType t) = none)

/-- From R6, R68 and I16: a launch with two hosts or an illegal configuration is refused; any other gives the reset state.
That a launch with both names the second host is the model's choice (log 6). -/
def Obligations.LaunchRefusesIllegalStart : Prop :=
  ∀ (hosts : Nat) (c : Cfg), launch hosts c =
    if 1 < hosts then .refused .moreThanOneHost
    else if c.wf = true then .next (State.resetWith c)
    else .refused .illegalConfiguration

/-! The host at the block's boundary. -/

/-- From R245: the error kind of every status code. -/
def Obligations.HostErrorKindsOfCodes : Prop :=
  errorKind 0x00 = none ∧ errorKind 0x01 = some .rejectedByTarget ∧
  (∀ c ∈ [0x10, 0x11, 0x12, 0x30], errorKind c = some .framingError) ∧ errorKind 0x20 = some .checksumMismatch ∧
  (∀ c ∈ [0x40, 0x41, 0x42], errorKind c = some .hostUsage)

/-- R212, R214 and R215 (R215's counts are marked derived): a transfer is one HEAD, ceil(L/1024) DATA and one TAIL request; every block is 1024 bytes, and the
blocks together are the data and the zero padding. -/
def Obligations.TransferSendsPaddedBlocks : Prop :=
  ∀ (h : HostCfg) (chip : ChipInfo) (offset : Nat) (data : List Byte),
    let n := numBlocks data.length
    let rs := transferRequests h chip offset data
    data.length ≤ 1024 * n ∧ 1024 * n < data.length + 1024 ∧
    rs.map (·.kind) = .head :: (List.replicate n .data ++ [.tail]) ∧
    (∀ r ∈ rs, r.kind = .data → r.payload.length = 1024 ∧ r.sq = none) ∧
    ((rs.filter (fun r => r.kind = .data)).map (·.payload)).flatten =
      data ++ List.replicate (1024 * n - data.length) 0x00

/-- From R218 and R220, with R212, R227, R228 and R245, on a session with a negotiated chip in the state of the region: a
transfer whose replies are all OK sends every frame and the session enters the next state; one whose reply k is anything
else, or that the caller abandons in round k or before it (R229), fails with that error kind, sends no frame after, and
ends the session. The statement leans on the
model's choices: arrivals as an input, the timeout judged before the code and the code before leftover bytes (log 9), the
frame of a failed transport counting as sent (log 20), the region and byte offset of the error and what a call on an ended
session does (log 21), no BOARD round in send_region (log 24), the unbounded offset and length (log 26), and any offset
being taken for any region (log 27), and an abandoned session being failed (log 28). -/
def Obligations.FailedReplyStopsTransfer : Prop :=
  ∀ (h : HostCfg) (kind : Region) (offset length : Nat) (data : List Byte) (x : Session) (chip : ChipInfo),
    x.state.cfg.wf = true → x.state.tx = [] → x.state.rx = [] → x.chip = some chip →
    x.negotiation = .reached kind.phase →
    length ≤ data.length → (h.headPayload length offset chip).length ≤ 1024 → h.tailPayload.length ≤ 1024 →
    let n := numBlocks length + 2
    (∀ later, x.arrivals = List.replicate n (.bytes [0xAA]) ++ later →
      ∃ y sent, x.sendRegion h kind offset length data = (y, .ok ()) ∧
        y.sent = x.sent ++ sent ∧ sent.length = n ∧ y.arrivals = later ∧ y.chip = some chip ∧
        y.negotiation = .reached kind.phase.next) ∧
    (∀ k a later e, k < n → x.arrivals = List.replicate k (.bytes [0xAA]) ++ a :: later → ackFailure a = some e →
      let err : SessionError :=
        { kind := e, phase := kind.phase, region := some kind, byteOffset := min (1024 * (k - 1)) length }
      ∃ y sent, x.sendRegion h kind offset length data = (y, .error err) ∧
        y.sent = x.sent ++ sent ∧ sent.length = (if a = .abandoned then k else k + 1) ∧ y.arrivals = later ∧
        EndedBy y err)

/-- From R222 and C6: a chip that reports ca, or whose fastboot version is not 1 by the host's predicate, fails the session
right after Query, before any frame of a transfer, and ends the session (R227). The statement leans on the model's choices:
that the error names the state Query, with no region and the byte offset 0 (log 9, log 21), and that every later call leaves
the session as it is and answers the same error (log 21), of which R222, C6 and R227 say only that the error is terminal. -/
def Obligations.UnsupportedChipFailsAfterQuery : Prop :=
  ∀ (h : HostCfg) (im : Images) (s : State) (p : List Byte) (later : List Arrival),
    s.cfg.wf = true → h.queryPayload.length ≤ 1024 → p.length = 11 →
    let flag (bit : Nat) := (byteAt p 0).getLsbD bit
    let chip : ChipInfo :=
      { ca := flag s.cfg.caBit, tee := flag s.cfg.teeBit, multiform := flag s.cfg.multiformBit,
        bootVersion := byteAt p 3 ++ byteAt p 4 ++ byteAt p 5 ++ byteAt p 6,
        systemId := byteAt p 7 ++ byteAt p 8 ++ byteAt p 9 ++ byteAt p 10 }
    chip.ca = true ∨ h.fastbootV1 chip = false →
    let x := openSession (.bytes (rspData s.cfg (s.cfg.typeCode .query) p 0xAA) :: later) s
    let err : SessionError := { kind := .unsupportedChip, phase := .query, region := none, byteOffset := 0 }
    ∃ y frame, x.runFullSequence h im = (y, .error err) ∧ y.sent = [frame] ∧ y.arrivals = later ∧
      y.chip = some chip ∧ EndedBy y err
end

