-- ==== Sys2Proof/Laws/Crc.lean ====
section
/-! SUPPORT. The CRC engine is linear in its register (R120): the facts the table form rests on. -/

namespace Sys2Proof.Machine

theorem crcShift_xor (c : Cfg) (a b : Half) : crcShift c (a ^^^ b) = crcShift c a ^^^ crcShift c b := by
  have hx : (a ^^^ b) <<< 1 = (a <<< 1) ^^^ (b <<< 1) := by
    apply BitVec.eq_of_getLsbD_eq
    intro i hi
    by_cases h : i < 1 <;> simp [hi, h]
  simp only [crcShift, BitVec.getLsbD_xor, hx]
  apply BitVec.eq_of_getLsbD_eq
  intro i _
  cases a.getLsbD 15 <;> cases b.getLsbD 15 <;>
    simp only [Bool.xor_false, Bool.false_xor, Bool.xor_self, Bool.false_eq_true, if_true, if_false,
      BitVec.getLsbD_xor] <;>
    cases (a <<< 1).getLsbD i <;> cases (b <<< 1).getLsbD i <;> cases c.crcPoly.getLsbD i <;> rfl

/-- Shifting is linear: the register's parts can be shifted apart. -/
theorem crcShifts_xor (c : Cfg) (n : Nat) (a b : Half) :
    crcShifts c n (a ^^^ b) = crcShifts c n a ^^^ crcShifts c n b := by
  induction n generalizing a b with
  | zero => rfl
  | succ n ih => rw [crcShifts, crcShift_xor, ih]; rfl

/-- n shifts of a register whose top n bits are clear are a plain shift by n. -/
theorem crcShifts_of_clear (c : Cfg) (n : Nat) (v : Half) (h : v.toNat < 2 ^ (16 - n)) (hn : n ≤ 16) :
    crcShifts c n v = v <<< n := by
  induction n generalizing v with
  | zero => simp [crcShifts]
  | succ n ih =>
    have hle : v.toNat < 2 ^ 15 := lt_of_lt_of_le h (Nat.pow_le_pow_right (by omega) (by omega))
    have htop : v.getLsbD 15 = false := by
      rw [BitVec.getLsbD]
      exact Nat.testBit_lt_two_pow hle
    have hs : crcShift c v = v <<< 1 := by simp only [crcShift, htop, Bool.false_eq_true, if_false]
    rw [crcShifts, hs, ih]
    · rw [← BitVec.shiftLeft_add, Nat.add_comm]
    · have : (v <<< 1).toNat = v.toNat * 2 := by
        rw [BitVec.toNat_shiftLeft, Nat.shiftLeft_eq, Nat.mod_eq_of_lt]
        omega
      rw [this]
      have : 2 ^ (16 - n) = 2 ^ (16 - (n + 1)) * 2 := by
        rw [← Nat.pow_succ]; congr 1; omega
      omega
    · omega

/-- The checksum of a string continued by one byte (R121). -/
theorem crc_foldl_append (c : Cfg) (v : Half) (a b : List Byte) :
    (a ++ b).foldl (crcStep c) v = b.foldl (crcStep c) (a.foldl (crcStep c) v) := List.foldl_append

end Sys2Proof.Machine
end

