-- ==== Sys2Proof/Laws/Serial.lean ====
section
/-! SUPPORT. Byte strings and serialisation: lengths, reads of a string made of pieces, and the inverses of R12. -/

namespace Sys2Proof

@[simp] theorem ser16_length (v : Half) (o : Order) : (ser16 v o).length = 2 := by cases o <;> rfl

@[simp] theorem ser32_length (v : Word) (o : Order) : (ser32 v o).length = 4 := by cases o <;> rfl

theorem half_of_bytes (v : Half) : v.extractLsb' 8 8 ++ v.extractLsb' 0 8 = v := by
  apply BitVec.eq_of_getLsbD_eq
  intro i hi
  simp only [BitVec.getLsbD_append, BitVec.getLsbD_extractLsb']
  split
  · simp_all
  · rename_i h
    have h1 : i - 8 < 8 := by omega
    have h2 : 8 + (i - 8) = i := by omega
    simp [h1, h2]

/-- R12: `de16` undoes `ser16`. -/
@[simp] theorem de16_ser16 (v : Half) (o : Order) : de16 (ser16 v o) o = v := by
  cases o <;> exact half_of_bytes v

theorem word_of_bytes (v : Word) :
    v.extractLsb' 24 8 ++ v.extractLsb' 16 8 ++ v.extractLsb' 8 8 ++ v.extractLsb' 0 8 = v := by
  apply BitVec.eq_of_getLsbD_eq
  intro i hi
  simp only [BitVec.getLsbD_append, BitVec.getLsbD_extractLsb']
  by_cases h1 : i < 8
  · simp [h1]
  · by_cases h2 : i < 16
    · have e1 : i - 8 < 8 := by omega
      have e2 : 8 + (i - 8) = i := by omega
      simp [h1, e1, e2]
    · by_cases h3 : i < 24
      · have e1 : ¬ i - 8 < 8 := by omega
        have e2 : i - 8 - 8 < 8 := by omega
        have e3 : 16 + (i - 8 - 8) = i := by omega
        simp [h1, e1, e2, e3]
      · have e1 : ¬ i - 8 < 8 := by omega
        have e2 : ¬ i - 8 - 8 < 8 := by omega
        have e3 : i - 8 - 8 - 8 < 8 := by omega
        have e4 : 24 + (i - 8 - 8 - 8) = i := by omega
        simp [h1, e1, e2, e3, e4]

/-- R12: `de32` undoes `ser32`. -/
@[simp] theorem de32_ser32 (v : Word) (o : Order) : de32 (ser32 v o) o = v := by
  cases o <;> exact word_of_bytes v

theorem ser16_of_bytes_le (b0 b1 : Byte) : ser16 (b1 ++ b0) .le = [b0, b1] := by
  have h0 : (b1 ++ b0).extractLsb' 0 8 = b0 := by
    apply BitVec.eq_of_getLsbD_eq
    intro i hi
    simp only [BitVec.getLsbD_extractLsb', BitVec.getLsbD_append, hi, decide_true, Bool.true_and, Nat.zero_add,
      if_pos]
  have h1 : (b1 ++ b0).extractLsb' 8 8 = b1 := by
    apply BitVec.eq_of_getLsbD_eq
    intro i hi
    have h8 : ¬ 8 + i < 8 := by omega
    simp only [BitVec.getLsbD_extractLsb', BitVec.getLsbD_append, hi, h8, decide_true, Bool.true_and, if_neg,
      not_false_eq_true, Nat.add_sub_cancel_left]
  simp [ser16, h0, h1]

/-- R12: `ser16` undoes `de16` on two bytes. -/
theorem ser16_de16 (b0 b1 : Byte) (o : Order) : ser16 (de16 [b0, b1] o) o = [b0, b1] := by
  cases o
  · exact ser16_of_bytes_le b0 b1
  · have h := ser16_of_bytes_le b1 b0
    simp only [ser16, List.cons.injEq, and_true] at h
    simp [de16, byteAt, ser16, h.1, h.2]

/-- Two bytes are determined by the value read from them (R12). -/
theorem de16_injective {s t : List Byte} (o : Order) (hs : s.length = 2) (ht : t.length = 2)
    (h : de16 s o = de16 t o) : s = t := by
  match s, t, hs, ht with
  | [a, b], [c, d], _, _ =>
    have := congrArg (fun v => ser16 v o) h
    simpa only [ser16_de16] using this

/-! Reads of strings made of pieces. -/

@[simp] theorem byteAt_cons_zero (b : Byte) (s : List Byte) : byteAt (b :: s) 0 = b := rfl

@[simp] theorem byteAt_cons_succ (b : Byte) (s : List Byte) (i : Nat) : byteAt (b :: s) (i + 1) = byteAt s i := rfl

theorem byteAt_append_right (a b : List Byte) (i : Nat) : byteAt (a ++ b) (a.length + i) = byteAt b i := by
  simp only [byteAt, List.getD_eq_getElem?_getD, List.getElem?_append_right (Nat.le_add_right _ _), Nat.add_sub_cancel_left]

theorem byteAt_append_left (a b : List Byte) (i : Nat) (h : i < a.length) : byteAt (a ++ b) i = byteAt a i := by
  simp [byteAt, List.getD_eq_getElem?_getD, List.getElem?_append_left h]

theorem byteAt_take (s : List Byte) (n i : Nat) (h : i < n) : byteAt (s.take n) i = byteAt s i := by
  simp [byteAt, List.getD_eq_getElem?_getD, h]

/-- A slice that lies inside the first n bytes is the same read from them. -/
theorem slice_take (s : List Byte) (n i j : Nat) (h : j < n) : slice (s.take n) i j = slice s i j := by
  simp only [slice, List.drop_take, List.take_take]
  congr 1
  omega

theorem slice_append_left (a b : List Byte) (i j : Nat) (h : j < a.length) : slice (a ++ b) i j = slice a i j := by
  have : (a ++ b).take a.length = a := by simp
  rw [← slice_take (a ++ b) a.length i j h, this]

theorem slice_length (s : List Byte) (i j : Nat) (h : j < s.length) : (slice s i j).length = j + 1 - i := by
  simp only [slice, List.length_take, List.length_drop]
  omega

/-- The middle piece of a string, read by its offsets. -/
theorem slice_middle (a b c : List Byte) (i j : Nat) (hi : i = a.length) (hj : j + 1 = a.length + b.length) :
    slice (a ++ b ++ c) i j = b := by
  subst hi
  have : j + 1 - a.length = b.length := by omega
  simp [slice, this]

/-- Two strings with the same bytes in a range have the same slice there. -/
theorem slice_congr {s t : List Byte} {i j : Nat} (hl : s.length = t.length)
    (h : ∀ k, i ≤ k → k ≤ j → byteAt s k = byteAt t k) : slice s i j = slice t i j := by
  apply List.ext_getElem?
  intro k
  simp only [slice, List.getElem?_take, List.getElem?_drop]
  split
  · rename_i hk
    have := h (i + k) (by omega) (by omega)
    by_cases hlt : i + k < s.length
    · have hlt' : i + k < t.length := by omega
      simp [byteAt, List.getD_eq_getElem?_getD, hlt, hlt'] at this
      simp [hlt, hlt', this]
    · have h1 : s[i + k]? = none := List.getElem?_eq_none (by omega)
      have h2 : t[i + k]? = none := List.getElem?_eq_none (by omega)
      rw [h1, h2]
  · rfl

end Sys2Proof
end

