-- ==== Sys2Proof/Laws/Decode.lean ====
section
/-! SUPPORT. Operands of a command message: taking an operand undoes writing it, and an operand taken is the one the bytes
write (R82). -/

namespace Sys2Proof

/-- The kinds that write an operand (R82): a byte is a b8 or a t8. -/
def Operand.fits : Operand → OperandKind → Bool
  | .byte _, .b8 => true
  | .byte _, .t8 => true
  | .half _, .h16 => true
  | .str _, .str => true
  | _, _ => false

@[simp] theorem Operand.bytes_length (o : Operand) : o.bytes.length = o.size := by
  cases o <;> simp [Operand.bytes, Operand.size]

theorem ser16_le_eq (v : Half) : ∃ b0 b1, ser16 v .le = [b0, b1] ∧ de16 [b0, b1] .le = v :=
  ⟨_, _, rfl, de16_ser16 v .le⟩

/-- Taking an operand from the front of its own bytes gives it back (R82). -/
theorem takeOperand_bytes (k : OperandKind) (o : Operand) (rest : List Byte) (hk : o.fits k = true)
    (hw : o.wf = true) : takeOperand k (o.bytes ++ rest) = some (o, rest) := by
  cases o with
  | byte b => cases k <;> first | (simp [Operand.fits] at hk; done) | rfl
  | half v =>
    obtain ⟨b0, b1, h, hv⟩ := ser16_le_eq v
    cases k <;> first | (simp [Operand.fits] at hk; done) | simp [Operand.bytes, h, takeOperand, hv]
  | str s =>
    obtain ⟨b0, b1, h, hv⟩ := ser16_le_eq (BitVec.ofNat 16 s.length)
    have hlen : (BitVec.ofNat 16 s.length).toNat = s.length := by
      simp only [Operand.wf, decide_eq_true_eq] at hw
      simp [BitVec.toNat_ofNat, Nat.mod_eq_of_lt hw]
    cases k <;> first | (simp [Operand.fits] at hk; done) | simp [Operand.bytes, h, takeOperand, hv, hlen]

/-- An operand taken is well-formed, of the kind asked for, and its bytes stood at the front (R82). -/
theorem takeOperand_eq_some {k : OperandKind} {bs : List Byte} {o : Operand} {rest : List Byte}
    (h : takeOperand k bs = some (o, rest)) : bs = o.bytes ++ rest ∧ o.wf = true ∧ o.fits k = true := by
  unfold takeOperand at h
  split at h
  · cases h; exact ⟨rfl, rfl, rfl⟩
  · cases h; exact ⟨rfl, rfl, rfl⟩
  · cases h
    exact ⟨by simp [Operand.bytes, ser16_de16], rfl, rfl⟩
  · rename_i b0 b1 tail
    simp only [Option.ite_none_right_eq_some, Option.some.injEq, Prod.mk.injEq] at h
    obtain ⟨hle, rfl, rfl⟩ := h
    have hlen : (tail.take (de16 [b0, b1] .le).toNat).length = (de16 [b0, b1] .le).toNat := by
      simpa using hle
    refine ⟨?_, ?_, rfl⟩
    · simp only [Operand.bytes, hlen, BitVec.ofNat_toNat, BitVec.setWidth_eq, ser16_de16, List.append_assoc,
        List.take_append_drop]
      rfl
    · simp only [Operand.wf, hlen, decide_eq_true_eq]
      exact (de16 [b0, b1] .le).isLt
  · cases h

/-- Operands that fit a format, kind by kind (R83). -/
def operandsFit : List Operand → List OperandKind → Bool
  | [], [] => true
  | o :: os, k :: ks => o.fits k && operandsFit os ks
  | _, _ => false

/-- Taking operands from the front of their own bytes gives them back (R80, R82). -/
theorem takeOperands_bytes (ks : List OperandKind) (os : List Operand) (rest : List Byte)
    (hk : operandsFit os ks = true) (hw : os.all Operand.wf = true) :
    takeOperands ks (os.flatMap Operand.bytes ++ rest) = some (os, rest) := by
  induction os generalizing ks with
  | nil => cases ks with
    | nil => rfl
    | cons k ks => cases hk
  | cons o os ih => cases ks with
    | nil => cases hk
    | cons k ks =>
      simp only [operandsFit, Bool.and_eq_true] at hk
      simp only [List.all_cons, Bool.and_eq_true] at hw
      simp only [List.flatMap_cons, List.append_assoc, takeOperands]
      simp only [takeOperand_bytes k o _ hk.1 hw.1, ih ks hk.2 hw.2]

/-- Operands taken are well-formed, fit the format, and their bytes stood at the front (R80, R82). -/
theorem takeOperands_eq_some {ks : List OperandKind} {bs : List Byte} {os : List Operand} {rest : List Byte}
    (h : takeOperands ks bs = some (os, rest)) :
    bs = os.flatMap Operand.bytes ++ rest ∧ os.all Operand.wf = true ∧ operandsFit os ks = true := by
  induction ks generalizing bs os with
  | nil => cases h; exact ⟨rfl, rfl, rfl⟩
  | cons k ks ih =>
    rw [takeOperands] at h
    split at h
    · cases h
    · rename_i o rest1 ho
      split at h
      · cases h
      · rename_i os1 rest2 hos
        cases h
        obtain ⟨e1, w1, f1⟩ := takeOperand_eq_some ho
        obtain ⟨e2, w2, f2⟩ := ih hos
        refine ⟨?_, ?_, ?_⟩
        · rw [e1, e2]; simp
        · simp [w1, w2]
        · simp [operandsFit, f1, f2]

/-- A row found is in the command map and has the code looked for (R83). -/
theorem rowOf_eq_some {c : Byte} {r : MapRow} (h : rowOf c = some r) : r ∈ commandMap ∧ r.code = c := by
  refine ⟨List.mem_of_find?_eq_some h, ?_⟩
  have := List.find?_some h
  simpa using this

/-- Each command's operands fit its row's format, and its row builds it from them (R83). -/
theorem rowOf_code (i : Instr) :
    ∃ r, rowOf i.code = some r ∧ operandsFit i.operands r.format = true ∧ r.build i.operands = some i := by
  cases i <;> exact ⟨_, rfl, rfl, rfl⟩

/-- A row that builds a command from operands has the command's code, and the operands are the command's (R83). -/
theorem MapRow.build_eq {r : MapRow} (hr : r ∈ commandMap) {os : List Operand} {i : Instr} (h : r.build os = some i) :
    i.operands = os ∧ i.code = r.code := by
  simp only [commandMap, crcRows, seqRows, encRows, decRows, List.cons_append, List.nil_append, List.mem_cons,
    List.not_mem_nil, or_false] at hr
  rcases hr with rfl | rfl | rfl | rfl | rfl | rfl | rfl | rfl | rfl | rfl | rfl | rfl | rfl | rfl | rfl | rfl | rfl | rfl <;>
  · simp only at h
    split at h <;> cases h
    exact ⟨rfl, rfl⟩

end Sys2Proof
end

