-- ==== Sys2Proof/Laws/Frame.lean ====
section
/-! SUPPORT. Lengths of frames (R90, R95). -/

namespace Sys2Proof.Machine

@[simp] theorem reqFrame_length (c : Cfg) (t : Byte) (sq : Half) (p : List Byte) :
    (reqFrame c t sq p).length = 7 + p.length := by
  simp [reqFrame]; omega

@[simp] theorem rspData_length (c : Cfg) (t : Byte) (p : List Byte) (cs : Byte) :
    (rspData c t p cs).length = p.length + 4 := by
  simp [rspData]

@[simp] theorem rspStatus_length (cs : Byte) : (rspStatus cs).length = 1 := rfl

/-- A block of a transfer is 1024 bytes (R214). -/
theorem take_pad_length (n : Nat) (part : List Byte) (h : part.length ≤ n) :
    (part ++ List.replicate (n - part.length) (0x00 : Byte)).length = n := by
  simp; omega

end Sys2Proof.Machine
end

