-- ==== Sys2Proof/Laws/State.lean ====
section
/-! SUPPORT. What each named operation does to each field of the state, one lemma per field, so that no proof unfolds a
record update. -/

namespace Sys2Proof.Machine

@[simp] theorem finish_cfg (x : Status) (out : Outputs) (s : State) : (finish x out s).cfg = s.cfg := rfl
@[simp] theorem finish_seqCnt (x : Status) (out : Outputs) (s : State) : (finish x out s).seqCnt = s.seqCnt := rfl
@[simp] theorem finish_crcAcc (x : Status) (out : Outputs) (s : State) : (finish x out s).crcAcc = s.crcAcc := rfl
@[simp] theorem finish_code (x : Status) (out : Outputs) (s : State) : (finish x out s).code = x.byte := rfl
@[simp] theorem finish_cstate (x : Status) (out : Outputs) (s : State) : (finish x out s).cstate = s.cstate := rfl
@[simp] theorem finish_csValid (x : Status) (out : Outputs) (s : State) : (finish x out s).csValid = s.csValid := rfl
@[simp] theorem finish_err (x : Status) (out : Outputs) (s : State) : (finish x out s).err = stickyErr s.err x := rfl
@[simp] theorem finish_tx (x : Status) (out : Outputs) (s : State) : (finish x out s).tx = s.tx := rfl
@[simp] theorem finish_rx (x : Status) (out : Outputs) (s : State) : (finish x out s).rx = s.rx := rfl
@[simp] theorem finish_port (x : Status) (out : Outputs) (s : State) : (finish x out s).port = s.port := rfl
@[simp] theorem finish_reply (x : Status) (out : Outputs) (s : State) : (finish x out s).reply = .result { code := x.byte, outputs := out } := rfl

@[simp] theorem setCnt_cfg (v : Byte) (s : State) : (setCnt v s).cfg = s.cfg := rfl
@[simp] theorem setCnt_seqCnt (v : Byte) (s : State) : (setCnt v s).seqCnt = v := rfl
@[simp] theorem setCnt_crcAcc (v : Byte) (s : State) : (setCnt v s).crcAcc = s.crcAcc := rfl
@[simp] theorem setCnt_code (v : Byte) (s : State) : (setCnt v s).code = s.code := rfl
@[simp] theorem setCnt_cstate (v : Byte) (s : State) : (setCnt v s).cstate = s.cstate := rfl
@[simp] theorem setCnt_csValid (v : Byte) (s : State) : (setCnt v s).csValid = s.csValid := rfl
@[simp] theorem setCnt_err (v : Byte) (s : State) : (setCnt v s).err = s.err := rfl
@[simp] theorem setCnt_tx (v : Byte) (s : State) : (setCnt v s).tx = s.tx := rfl
@[simp] theorem setCnt_rx (v : Byte) (s : State) : (setCnt v s).rx = s.rx := rfl
@[simp] theorem setCnt_port (v : Byte) (s : State) : (setCnt v s).port = s.port := rfl
@[simp] theorem setCnt_reply (v : Byte) (s : State) : (setCnt v s).reply = s.reply := rfl

@[simp] theorem setCrcAcc_cfg (v : Half) (s : State) : (setCrcAcc v s).cfg = s.cfg := rfl
@[simp] theorem setCrcAcc_seqCnt (v : Half) (s : State) : (setCrcAcc v s).seqCnt = s.seqCnt := rfl
@[simp] theorem setCrcAcc_crcAcc (v : Half) (s : State) : (setCrcAcc v s).crcAcc = v := rfl
@[simp] theorem setCrcAcc_code (v : Half) (s : State) : (setCrcAcc v s).code = s.code := rfl
@[simp] theorem setCrcAcc_cstate (v : Half) (s : State) : (setCrcAcc v s).cstate = s.cstate := rfl
@[simp] theorem setCrcAcc_csValid (v : Half) (s : State) : (setCrcAcc v s).csValid = s.csValid := rfl
@[simp] theorem setCrcAcc_err (v : Half) (s : State) : (setCrcAcc v s).err = s.err := rfl
@[simp] theorem setCrcAcc_tx (v : Half) (s : State) : (setCrcAcc v s).tx = s.tx := rfl
@[simp] theorem setCrcAcc_rx (v : Half) (s : State) : (setCrcAcc v s).rx = s.rx := rfl
@[simp] theorem setCrcAcc_port (v : Half) (s : State) : (setCrcAcc v s).port = s.port := rfl
@[simp] theorem setCrcAcc_reply (v : Half) (s : State) : (setCrcAcc v s).reply = s.reply := rfl

@[simp] theorem captureState_cfg (b : Byte) (s : State) : (captureState b s).cfg = s.cfg := rfl
@[simp] theorem captureState_seqCnt (b : Byte) (s : State) : (captureState b s).seqCnt = s.seqCnt := rfl
@[simp] theorem captureState_crcAcc (b : Byte) (s : State) : (captureState b s).crcAcc = s.crcAcc := rfl
@[simp] theorem captureState_code (b : Byte) (s : State) : (captureState b s).code = s.code := rfl
@[simp] theorem captureState_cstate (b : Byte) (s : State) : (captureState b s).cstate = b := rfl
@[simp] theorem captureState_csValid (b : Byte) (s : State) : (captureState b s).csValid = true := rfl
@[simp] theorem captureState_err (b : Byte) (s : State) : (captureState b s).err = s.err := rfl
@[simp] theorem captureState_tx (b : Byte) (s : State) : (captureState b s).tx = s.tx := rfl
@[simp] theorem captureState_rx (b : Byte) (s : State) : (captureState b s).rx = s.rx := rfl
@[simp] theorem captureState_port (b : Byte) (s : State) : (captureState b s).port = s.port := rfl
@[simp] theorem captureState_reply (b : Byte) (s : State) : (captureState b s).reply = s.reply := rfl

@[simp] theorem captureNone_cfg (s : State) : (captureNone s).cfg = s.cfg := rfl
@[simp] theorem captureNone_seqCnt (s : State) : (captureNone s).seqCnt = s.seqCnt := rfl
@[simp] theorem captureNone_crcAcc (s : State) : (captureNone s).crcAcc = s.crcAcc := rfl
@[simp] theorem captureNone_code (s : State) : (captureNone s).code = s.code := rfl
@[simp] theorem captureNone_cstate (s : State) : (captureNone s).cstate = 0x00 := rfl
@[simp] theorem captureNone_csValid (s : State) : (captureNone s).csValid = false := rfl
@[simp] theorem captureNone_err (s : State) : (captureNone s).err = s.err := rfl
@[simp] theorem captureNone_tx (s : State) : (captureNone s).tx = s.tx := rfl
@[simp] theorem captureNone_rx (s : State) : (captureNone s).rx = s.rx := rfl
@[simp] theorem captureNone_port (s : State) : (captureNone s).port = s.port := rfl
@[simp] theorem captureNone_reply (s : State) : (captureNone s).reply = s.reply := rfl

@[simp] theorem emit_cfg (f : List Byte) (s : State) : (emit f s).cfg = s.cfg := rfl
@[simp] theorem emit_seqCnt (f : List Byte) (s : State) : (emit f s).seqCnt = s.seqCnt := rfl
@[simp] theorem emit_crcAcc (f : List Byte) (s : State) : (emit f s).crcAcc = s.crcAcc := rfl
@[simp] theorem emit_code (f : List Byte) (s : State) : (emit f s).code = s.code := rfl
@[simp] theorem emit_cstate (f : List Byte) (s : State) : (emit f s).cstate = s.cstate := rfl
@[simp] theorem emit_csValid (f : List Byte) (s : State) : (emit f s).csValid = s.csValid := rfl
@[simp] theorem emit_err (f : List Byte) (s : State) : (emit f s).err = s.err := rfl
@[simp] theorem emit_tx (f : List Byte) (s : State) : (emit f s).tx = s.tx ++ f := rfl
@[simp] theorem emit_rx (f : List Byte) (s : State) : (emit f s).rx = s.rx := rfl
@[simp] theorem emit_port (f : List Byte) (s : State) : (emit f s).port = s.port := rfl
@[simp] theorem emit_reply (f : List Byte) (s : State) : (emit f s).reply = s.reply := rfl

@[simp] theorem dropRx_cfg (n : Nat) (s : State) : (dropRx n s).cfg = s.cfg := rfl
@[simp] theorem dropRx_seqCnt (n : Nat) (s : State) : (dropRx n s).seqCnt = s.seqCnt := rfl
@[simp] theorem dropRx_crcAcc (n : Nat) (s : State) : (dropRx n s).crcAcc = s.crcAcc := rfl
@[simp] theorem dropRx_code (n : Nat) (s : State) : (dropRx n s).code = s.code := rfl
@[simp] theorem dropRx_cstate (n : Nat) (s : State) : (dropRx n s).cstate = s.cstate := rfl
@[simp] theorem dropRx_csValid (n : Nat) (s : State) : (dropRx n s).csValid = s.csValid := rfl
@[simp] theorem dropRx_err (n : Nat) (s : State) : (dropRx n s).err = s.err := rfl
@[simp] theorem dropRx_tx (n : Nat) (s : State) : (dropRx n s).tx = s.tx := rfl
@[simp] theorem dropRx_rx (n : Nat) (s : State) : (dropRx n s).rx = s.rx.drop n := rfl
@[simp] theorem dropRx_port (n : Nat) (s : State) : (dropRx n s).port = s.port := rfl
@[simp] theorem dropRx_reply (n : Nat) (s : State) : (dropRx n s).reply = s.reply := rfl

@[simp] theorem drain_cfg (s : State) : (drain s).cfg = s.cfg := rfl
@[simp] theorem drain_seqCnt (s : State) : (drain s).seqCnt = s.seqCnt := rfl
@[simp] theorem drain_crcAcc (s : State) : (drain s).crcAcc = s.crcAcc := rfl
@[simp] theorem drain_code (s : State) : (drain s).code = s.code := rfl
@[simp] theorem drain_cstate (s : State) : (drain s).cstate = s.cstate := rfl
@[simp] theorem drain_csValid (s : State) : (drain s).csValid = s.csValid := rfl
@[simp] theorem drain_err (s : State) : (drain s).err = s.err := rfl
@[simp] theorem drain_tx (s : State) : (drain s).tx = s.tx := rfl
@[simp] theorem drain_rx (s : State) : (drain s).rx = [] := rfl
@[simp] theorem drain_port (s : State) : (drain s).port = s.port := rfl
@[simp] theorem drain_reply (s : State) : (drain s).reply = s.reply := rfl

@[simp] theorem hostPut_cfg (bs : List Byte) (s : State) : (hostPut bs s).cfg = s.cfg := rfl
@[simp] theorem hostPut_seqCnt (bs : List Byte) (s : State) : (hostPut bs s).seqCnt = s.seqCnt := rfl
@[simp] theorem hostPut_crcAcc (bs : List Byte) (s : State) : (hostPut bs s).crcAcc = s.crcAcc := rfl
@[simp] theorem hostPut_code (bs : List Byte) (s : State) : (hostPut bs s).code = s.code := rfl
@[simp] theorem hostPut_cstate (bs : List Byte) (s : State) : (hostPut bs s).cstate = s.cstate := rfl
@[simp] theorem hostPut_csValid (bs : List Byte) (s : State) : (hostPut bs s).csValid = s.csValid := rfl
@[simp] theorem hostPut_err (bs : List Byte) (s : State) : (hostPut bs s).err = s.err := rfl
@[simp] theorem hostPut_tx (bs : List Byte) (s : State) : (hostPut bs s).tx = s.tx := rfl
@[simp] theorem hostPut_rx (bs : List Byte) (s : State) : (hostPut bs s).rx = s.rx ++ bs := rfl
@[simp] theorem hostPut_port (bs : List Byte) (s : State) : (hostPut bs s).port = s.port := rfl
@[simp] theorem hostPut_reply (bs : List Byte) (s : State) : (hostPut bs s).reply = .nothing := rfl

@[simp] theorem readReg_cfg (n : Nat) (s : State) : (readReg n s).cfg = s.cfg := rfl
@[simp] theorem readReg_seqCnt (n : Nat) (s : State) : (readReg n s).seqCnt = s.seqCnt := rfl
@[simp] theorem readReg_crcAcc (n : Nat) (s : State) : (readReg n s).crcAcc = s.crcAcc := rfl
@[simp] theorem readReg_code (n : Nat) (s : State) : (readReg n s).code = s.code := rfl
@[simp] theorem readReg_cstate (n : Nat) (s : State) : (readReg n s).cstate = s.cstate := rfl
@[simp] theorem readReg_csValid (n : Nat) (s : State) : (readReg n s).csValid = s.csValid := rfl
@[simp] theorem readReg_err (n : Nat) (s : State) : (readReg n s).err = s.err := rfl
@[simp] theorem readReg_tx (n : Nat) (s : State) : (readReg n s).tx = s.tx := rfl
@[simp] theorem readReg_rx (n : Nat) (s : State) : (readReg n s).rx = s.rx := rfl
@[simp] theorem readReg_port (n : Nat) (s : State) : (readReg n s).port = s.port := rfl
@[simp] theorem readReg_reply (n : Nat) (s : State) : (readReg n s).reply = .word (readRegValue s n) := rfl

@[simp] theorem present_cfg (msg : List Byte) (s : State) : (present msg s).cfg = s.cfg := rfl
@[simp] theorem present_seqCnt (msg : List Byte) (s : State) : (present msg s).seqCnt = s.seqCnt := rfl
@[simp] theorem present_crcAcc (msg : List Byte) (s : State) : (present msg s).crcAcc = s.crcAcc := rfl
@[simp] theorem present_code (msg : List Byte) (s : State) : (present msg s).code = s.code := rfl
@[simp] theorem present_cstate (msg : List Byte) (s : State) : (present msg s).cstate = s.cstate := rfl
@[simp] theorem present_csValid (msg : List Byte) (s : State) : (present msg s).csValid = s.csValid := rfl
@[simp] theorem present_err (msg : List Byte) (s : State) : (present msg s).err = s.err := rfl
@[simp] theorem present_tx (msg : List Byte) (s : State) : (present msg s).tx = s.tx := rfl
@[simp] theorem present_rx (msg : List Byte) (s : State) : (present msg s).rx = s.rx := rfl
@[simp] theorem present_port (msg : List Byte) (s : State) : (present msg s).port = .command msg :: s.port := rfl
@[simp] theorem present_reply (msg : List Byte) (s : State) : (present msg s).reply = s.reply := rfl

@[simp] theorem resetWith_cfg (c : Cfg) : (State.resetWith c).cfg = c := rfl
@[simp] theorem resetWith_seqCnt (c : Cfg) : (State.resetWith c).seqCnt = Config.seqInit := rfl
@[simp] theorem resetWith_crcAcc (c : Cfg) : (State.resetWith c).crcAcc = c.crcInit := rfl
@[simp] theorem resetWith_code (c : Cfg) : (State.resetWith c).code = 0x00 := rfl
@[simp] theorem resetWith_cstate (c : Cfg) : (State.resetWith c).cstate = 0x00 := rfl
@[simp] theorem resetWith_csValid (c : Cfg) : (State.resetWith c).csValid = false := rfl
@[simp] theorem resetWith_err (c : Cfg) : (State.resetWith c).err = false := rfl
@[simp] theorem resetWith_tx (c : Cfg) : (State.resetWith c).tx = [] := rfl
@[simp] theorem resetWith_rx (c : Cfg) : (State.resetWith c).rx = [] := rfl
@[simp] theorem resetWith_port (c : Cfg) : (State.resetWith c).port = [] := rfl
@[simp] theorem resetWith_reply (c : Cfg) : (State.resetWith c).reply = .nothing := rfl

@[simp] theorem blockReset_cfg (s : State) : (blockReset s).cfg = s.cfg := rfl
@[simp] theorem blockReset_seqCnt (s : State) : (blockReset s).seqCnt = Config.seqInit := rfl
@[simp] theorem blockReset_crcAcc (s : State) : (blockReset s).crcAcc = s.cfg.crcInit := rfl
@[simp] theorem blockReset_code (s : State) : (blockReset s).code = 0x00 := rfl
@[simp] theorem blockReset_cstate (s : State) : (blockReset s).cstate = 0x00 := rfl
@[simp] theorem blockReset_csValid (s : State) : (blockReset s).csValid = false := rfl
@[simp] theorem blockReset_err (s : State) : (blockReset s).err = false := rfl
@[simp] theorem blockReset_tx (s : State) : (blockReset s).tx = [] := rfl
@[simp] theorem blockReset_rx (s : State) : (blockReset s).rx = [] := rfl
@[simp] theorem blockReset_port (s : State) : (blockReset s).port = s.port := rfl
@[simp] theorem blockReset_reply (s : State) : (blockReset s).reply = .nothing := rfl

end Sys2Proof.Machine
end

