-- ==== Sys2Proof/Laws/Ops.lean ====
section
/-! SUPPORT. What each shared operation does, said once: finishing a command, the checks of the encoders, the verdicts of
the decoders, and the kinds of type codes. -/

namespace Sys2Proof.Machine

/-! Finishing (R243). -/

/-- Every status code is in the list of R241. -/
theorem Status.byte_legal (x : Status) : x.byte ∈ legalCodes := by cases x <;> decide

/-- Only OK has the number 0x00 (R241). -/
theorem Status.byte_eq_zero {x : Status} : x.byte = 0x00 ↔ x = .ok := by cases x <;> decide

theorem stickyErr_eq (e : Bool) (x : Status) : stickyErr e x = (e || x.byte != 0x00) := by
  cases x <;> cases e <;> rfl

/-- `finish` does what R243 and R32 say, whatever was written before it. -/
theorem finish_finished (x : Status) (out : Outputs) (s s' : State) (h : s'.err = s.err) :
    Finished s (finish x out s') x.byte out := by
  refine ⟨rfl, ?_, rfl⟩
  simp [stickyErr_eq, h]

/-- A command's frame: what was written before `finish` decides it. -/
theorem frameBut_finish (ps : List Part) (x : Status) (out : Outputs) (s s' : State) (h : FrameBut ps s s') :
    FrameBut ps s (finish x out s') := by
  refine ⟨h.1, h.2.1, fun p hp => ?_⟩
  have := h.2.2 p hp
  cases p <;> exact this

/-- Nothing changed. -/
theorem frameBut_refl (ps : List Part) (s : State) : FrameBut ps s s :=
  ⟨rfl, rfl, fun p _ => by cases p <;> simp [Part.same]⟩

theorem frameBut_setCnt (v : Byte) (s : State) : FrameBut [.seqCnt] s (setCnt v s) :=
  ⟨rfl, rfl, fun p hp => by cases p <;> simp_all [Part.same]⟩

theorem frameBut_setCrcAcc (v : Half) (s : State) : FrameBut [.crcAcc] s (setCrcAcc v s) :=
  ⟨rfl, rfl, fun p hp => by cases p <;> simp_all [Part.same]⟩

theorem frameBut_emit (f : List Byte) (s : State) : FrameBut [.tx] s (emit f s) :=
  ⟨rfl, rfl, fun p hp => by cases p <;> simp_all [Part.same]⟩

theorem frameBut_dropRx (n : Nat) (s : State) : FrameBut [.rx] s (dropRx n s) :=
  ⟨rfl, rfl, fun p hp => by cases p <;> simp_all [Part.same]⟩

theorem frameBut_drain (s : State) : FrameBut [.rx] s (drain s) :=
  ⟨rfl, rfl, fun p hp => by cases p <;> simp_all [Part.same]⟩

theorem frameBut_captureState (b : Byte) (s : State) : FrameBut [.capture] s (captureState b s) :=
  ⟨rfl, rfl, fun p hp => by cases p <;> simp_all [Part.same]⟩

theorem frameBut_captureNone (s : State) : FrameBut [.capture] s (captureNone s) :=
  ⟨rfl, rfl, fun p hp => by cases p <;> simp_all [Part.same]⟩

/-- Two operations in a row change at most what either changes. -/
theorem frameBut_trans {ps qs : List Part} {s t u : State} (h1 : FrameBut ps s t) (h2 : FrameBut qs t u) :
    FrameBut (ps ++ qs) s u := by
  refine ⟨h2.1.trans h1.1, h2.2.1.trans h1.2.1, fun p hp => ?_⟩
  rw [List.mem_append, not_or] at hp
  have a := h1.2.2 p hp.1
  have b := h2.2.2 p hp.2
  cases p <;> simp_all [Part.same]

/-- The three answers of a classification (R180). -/
theorem csClass_cases (b : Byte) :
    (b = 0xAA ∧ csClass b = .ok) ∨ (b = 0x55 ∧ csClass b = .rejected) ∨
    (b ≠ 0xAA ∧ b ≠ 0x55 ∧ csClass b = .framingCstate) := by
  by_cases h1 : b = Config.csOK
  · exact .inl ⟨h1, if_pos h1⟩
  · by_cases h2 : b = Config.csBAD
    · exact .inr (.inl ⟨h2, by rw [csClass, if_neg h1, if_pos h2]⟩)
    · exact .inr (.inr ⟨h1, h2, by rw [csClass, if_neg h1, if_neg h2]⟩)

/-- A frame may be read with more parts listed. -/
theorem frameBut_mono {ps qs : List Part} {s t : State} (h : FrameBut ps s t) (hsub : ∀ p ∈ ps, p ∈ qs) :
    FrameBut qs s t :=
  ⟨h.1, h.2.1, fun p hp => h.2.2 p fun hin => hp (hsub p hin)⟩

/-- `csClass` by number (R180). -/
theorem csClass_byte (b : Byte) : (csClass b).byte = csCode b := by
  rcases csClass_cases b with ⟨rfl, h⟩ | ⟨rfl, h⟩ | ⟨h1, h2, h⟩
  · rw [h]; rfl
  · rw [h]; rfl
  · rw [h, csCode, if_neg h1, if_neg h2]; rfl

/-- The complement mask is the 16-bit complement (R10, R140). -/
theorem cmp16_eq_not (v : Half) : cmp16 v = ~~~v := by
  simp only [cmp16, Config.complementMask]
  exact BitVec.xor_allOnes (x := v)

/-! Checks and verdicts. -/

/-- Everything the check of a request encoder can answer (R161, R246). -/
theorem reqCheck_cases (c : Cfg) (t : Byte) (p : List Byte) :
    (kindOf c t = none ∧ reqCheck c t p = .illegalType) ∨
    (∃ k, kindOf c t = some k ∧
      ((p.length > 1024 ∧ reqCheck c t p = .illegalLength) ∨
       (p.length ≤ 1024 ∧ k = .data ∧ p.length ≠ 1024 ∧ reqCheck c t p = .illegalLength) ∨
       (p.length ≤ 1024 ∧ (k = .data → p.length = 1024) ∧ reqCheck c t p = .ok))) := by
  simp only [reqCheck, Config.payloadMax, Config.dataBlock]
  cases kindOf c t with
  | none => exact .inl ⟨rfl, rfl⟩
  | some k =>
    refine .inr ⟨k, rfl, ?_⟩
    by_cases h : p.length > 1024
    · exact .inl ⟨h, by simp [h]⟩
    · by_cases h2 : k = .data ∧ p.length ≠ 1024
      · exact .inr (.inl ⟨by omega, h2.1, h2.2, by simp [h, h2]⟩)
      · refine .inr (.inr ⟨by omega, fun hk => ?_, by simp [h, h2]⟩)
        by_contra hne
        exact h2 ⟨hk, hne⟩

/-- Everything the check of ENC_RSP_DATA can answer (R167, R246). -/
theorem rspCheck_cases (c : Cfg) (t : Byte) (p : List Byte) :
    (kindOf c t = none ∧ rspCheck c t p = .illegalType) ∨
    (∃ k, kindOf c t = some k ∧
      ((rspForm k = .statusOnly ∧ rspCheck c t p = .illegalType) ∨
       (∃ n, rspForm k = .dataForm n ∧
         ((p.length ≠ n ∧ rspCheck c t p = .illegalLength) ∨ (p.length = n ∧ rspCheck c t p = .ok))))) := by
  simp only [rspCheck]
  cases kindOf c t with
  | none => exact .inl ⟨rfl, rfl⟩
  | some k =>
    refine .inr ⟨k, rfl, ?_⟩
    cases hf : rspForm k with
    | statusOnly => exact .inl ⟨rfl, by simp [hf]⟩
    | dataForm n =>
      refine .inr ⟨n, rfl, ?_⟩
      by_cases h : p.length = n
      · exact .inr ⟨h, by simp [hf, h]⟩
      · exact .inl ⟨h, by simp [hf, h]⟩

/-- Everything DEC_REQ can say of a whole frame (R192, R246). -/
theorem reqVerdict_cases (c : Cfg) (r : ReqFields) :
    (isReq c r.type = false ∧ reqVerdict c r = .framingType) ∨
    (isReq c r.type = true ∧ r.cmp ≠ ~~~r.sq ∧ reqVerdict c r = .complementMismatch) ∨
    (isReq c r.type = true ∧ r.cmp = ~~~r.sq ∧ crc16 c r.covered ≠ r.checksum ∧
      reqVerdict c r = .checksumMismatch) ∨
    (isReq c r.type = true ∧ r.cmp = ~~~r.sq ∧ crc16 c r.covered = r.checksum ∧ reqVerdict c r = .ok) := by
  simp only [reqVerdict, cmp16_eq_not]
  by_cases h1 : isReq c r.type = false
  · exact .inl ⟨h1, by simp [h1]⟩
  · have h1' : isReq c r.type = true := by simpa using h1
    by_cases h2 : r.cmp = ~~~r.sq
    · by_cases h3 : crc16 c r.covered = r.checksum
      · exact .inr (.inr (.inr ⟨h1', h2, h3, by simp [h1', h2, h3]⟩))
      · exact .inr (.inr (.inl ⟨h1', h2, h3, by simp [h1', h2, h3]⟩))
    · exact .inr (.inl ⟨h1', h2, by simp [h1', h2]⟩)

/-- Everything DEC_RSP can say of a whole data-form reply (R181, R182). -/
theorem rspVerdict_cases (c : Cfg) (t : Byte) (r : RspFields) :
    (r.type ≠ t ||| 0x80 ∧ rspVerdict c t r = .framingType) ∨
    (r.type = t ||| 0x80 ∧ (r.cstate ≠ 0xAA ∧ r.cstate ≠ 0x55) ∧ rspVerdict c t r = .framingCstate) ∨
    (r.type = t ||| 0x80 ∧ (r.cstate = 0xAA ∨ r.cstate = 0x55) ∧
      crc16 c (rspCovered c r.type r.payload) ≠ r.checksum ∧ rspVerdict c t r = .checksumMismatch) ∨
    (r.type = t ||| 0x80 ∧ (r.cstate = 0xAA ∨ r.cstate = 0x55) ∧
      crc16 c (rspCovered c r.type r.payload) = r.checksum ∧ rspVerdict c t r = csClass r.cstate) := by
  by_cases h1 : r.type = rspType t
  · have n1 : ¬ r.type ≠ rspType t := not_not.mpr h1
    by_cases h2 : r.cstate ≠ Config.csOK ∧ r.cstate ≠ Config.csBAD
    · exact .inr (.inl ⟨h1, h2, by rw [rspVerdict, if_neg n1, if_pos h2]⟩)
    · have h2' : r.cstate = Config.csOK ∨ r.cstate = Config.csBAD := by
        by_contra hc
        exact h2 (not_or.mp hc)
      by_cases h3 : crc16 c (rspCovered c r.type r.payload) = r.checksum
      · exact .inr (.inr (.inr ⟨h1, h2', h3, by
          rw [rspVerdict, if_neg n1, if_neg h2, if_neg (not_not.mpr h3)]⟩))
      · exact .inr (.inr (.inl ⟨h1, h2', h3, by rw [rspVerdict, if_neg n1, if_neg h2, if_pos h3]⟩))
  · exact .inl ⟨h1, by rw [rspVerdict, if_pos h1]⟩

/-! Kinds of type codes (R14). -/

/-- A kind found has the code looked for. -/
theorem kindOf_typeCode {c : Cfg} {t : Byte} {k : ReqType} (h : kindOf c t = some k) : c.typeCode k = t := by
  have := List.find?_some h
  simpa using this

/-- Every kind is listed. -/
theorem ReqType.mem_all (k : ReqType) : k ∈ ReqType.all := by cases k <;> decide

/-- A code of some kind is a request type. -/
theorem kindOf_isSome {c : Cfg} {t : Byte} : (kindOf c t).isSome ↔ ∃ k, c.typeCode k = t := by
  constructor
  · intro h
    obtain ⟨k, hk⟩ := Option.isSome_iff_exists.mp h
    exact ⟨k, kindOf_typeCode hk⟩
  · rintro ⟨k, hk⟩
    rw [kindOf, List.find?_isSome]
    exact ⟨k, ReqType.mem_all k, by simp [hk]⟩

/-! Streams. -/

/-- What a host take does when TX holds enough (R55). -/
theorem hostTake_of_le {n : Nat} {s : State} (h : n ≤ s.tx.length) :
    hostTake n s = .next { s with tx := s.tx.drop n, reply := .taken (s.tx.take n) } := by
  simp [hostTake, h]

end Sys2Proof.Machine
end

