-- ==== Sys2Proof/Laws/Exec.lean ====
section
/-! SUPPORT. What the commands with checks can answer, one lemma per answer, so that no proof unfolds a meaning. -/

namespace Sys2Proof.Machine

/-- The counter's increment as a number (R140). -/
theorem inc8_toNat (c : Byte) : (inc8 c).toNat = (c.toNat + 1) % 256 := by simp [inc8]

/-- The `len` output of a request encoder (R161). -/
theorem lenOutput_reqFrame (c : Cfg) (t : Byte) (sq : Half) (p : List Byte) :
    lenOutput (reqFrame c t sq p) = BitVec.ofNat 16 (7 + p.length) := by
  rw [lenOutput, reqFrame_length]

/-- The `len` output of ENC_RSP_DATA (R167). -/
theorem lenOutput_rspData (c : Cfg) (t : Byte) (p : List Byte) (cs : Byte) :
    lenOutput (rspData c t p cs) = BitVec.ofNat 16 (p.length + 4) := by
  rw [lenOutput, rspData_length]

/-- A failing ENC_REQ only finishes (R161, R248). -/
theorem execEncReq_err {t : Byte} {sq : Half} {p : List Byte} {s : State} (e : Status)
    (he : reqCheck s.cfg t p = e) (hn : e ≠ .ok) : execEncReq t sq p s = .next (finish e .absent s) := by
  unfold execEncReq
  rw [he]
  cases e <;> first | rfl | exact absurd rfl hn

/-- A passing ENC_REQ emits its frame (R161). -/
theorem execEncReq_ok {t : Byte} {sq : Half} {p : List Byte} {s : State} (he : reqCheck s.cfg t p = .ok) :
    execEncReq t sq p s =
      .next (finish .ok (.frameLen (lenOutput (reqFrame s.cfg t sq p))) (emit (reqFrame s.cfg t sq p) s)) := by
  unfold execEncReq
  rw [he]

/-- A failing ENC_REQ_NEXT only finishes: the counter does not advance (R164, R248). -/
theorem execEncReqNext_err {t : Byte} {p : List Byte} {s : State} (e : Status)
    (he : reqCheck s.cfg t p = e) (hn : e ≠ .ok) : execEncReqNext t p s = .next (finish e .absent s) := by
  unfold execEncReqNext
  rw [he]
  cases e <;> first | rfl | exact absurd rfl hn

/-- A passing ENC_REQ_NEXT takes the counter's value and emits the frame (R164). -/
theorem execEncReqNext_ok {t : Byte} {p : List Byte} {s : State} (he : reqCheck s.cfg t p = .ok) :
    execEncReqNext t p s =
      .next (finish .ok (.frameLenSeq (lenOutput (reqFrame s.cfg t (seq16 s.seqCnt) p)) (seq16 s.seqCnt))
        (emit (reqFrame s.cfg t (seq16 s.seqCnt) p) (setCnt (inc8 s.seqCnt) s))) := by
  unfold execEncReqNext
  rw [he]

/-- A failing ENC_RSP_DATA only finishes (R167, R248). -/
theorem execEncRspData_err {t : Byte} {p : List Byte} {cs : Byte} {s : State} (e : Status)
    (he : rspCheck s.cfg t p = e) (hn : e ≠ .ok) : execEncRspData t p cs s = .next (finish e .absent s) := by
  unfold execEncRspData
  rw [he]
  cases e <;> first | rfl | exact absurd rfl hn

/-- A passing ENC_RSP_DATA emits its frame (R167). -/
theorem execEncRspData_ok {t : Byte} {p : List Byte} {cs : Byte} {s : State} (he : rspCheck s.cfg t p = .ok) :
    execEncRspData t p cs s =
      .next (finish .ok (.frameLen (lenOutput (rspData s.cfg t p cs))) (emit (rspData s.cfg t p cs) s)) := by
  unfold execEncRspData
  rw [he]

/-- Everything DEC_RSP can do (R181): an unknown type, a status-only reply, a short or a whole data-form reply. -/
theorem execDecRsp_cases (t : Byte) (s : State) :
    (kindOf s.cfg t = none ∧ execDecRsp t s = .next (finish .illegalType .absent (captureNone s))) ∨
    (∃ k, kindOf s.cfg t = some k ∧ rspForm k = .statusOnly ∧ execDecRsp t s = .next (decRspStatusOnly s)) ∨
    (∃ k n, kindOf s.cfg t = some k ∧ rspForm k = .dataForm n ∧ s.rx.length < n + 4 ∧
      execDecRsp t s = .next (finish .framingShort .absent (captureNone (drain s)))) ∨
    (∃ k n, kindOf s.cfg t = some k ∧ rspForm k = .dataForm n ∧ n + 4 ≤ s.rx.length ∧
      execDecRsp t s =
        .next (finish (rspVerdict s.cfg t (rspFields s.cfg n (s.rx.take (n + 4))))
          (rspFields s.cfg n (s.rx.take (n + 4))).outputs
          (captureState (rspFields s.cfg n (s.rx.take (n + 4))).cstate (dropRx (n + 4) s)))) := by
  unfold execDecRsp
  cases hk : kindOf s.cfg t with
  | none => exact .inl ⟨rfl, rfl⟩
  | some k =>
    refine .inr ?_
    cases hf : rspForm k with
    | statusOnly => exact .inl ⟨k, rfl, hf, by simp only [hf]⟩
    | dataForm n =>
      refine .inr ?_
      by_cases h : s.rx.length < n + 4
      · refine .inl ⟨k, n, rfl, hf, h, ?_⟩
        simp only [hf, decRspDataForm]
        rw [if_pos (show avail s < n + Config.rspOverhead from h)]
      · refine .inr ⟨k, n, rfl, hf, by omega, ?_⟩
        simp only [hf, decRspDataForm]
        rw [if_neg (show ¬ avail s < n + Config.rspOverhead from h)]
        rfl

/-- Everything DEC_REQ can do (R192): a length out of range, a short frame, a whole one. -/
theorem execDecReq_cases (m : Half) (s : State) :
    (m.toNat > 1024 ∧ execDecReq m s = .next (finish .illegalLength .absent s)) ∨
    (m.toNat ≤ 1024 ∧ s.rx.length < m.toNat + 7 ∧ execDecReq m s = .next (finish .framingShort .absent (drain s))) ∨
    (m.toNat ≤ 1024 ∧ m.toNat + 7 ≤ s.rx.length ∧
      execDecReq m s =
        .next (finish (reqVerdict s.cfg (reqFields s.cfg m.toNat (s.rx.take (m.toNat + 7))))
          (reqFields s.cfg m.toNat (s.rx.take (m.toNat + 7))).outputs (dropRx (m.toNat + 7) s))) := by
  unfold execDecReq
  by_cases h1 : m.toNat > 1024
  · exact .inl ⟨h1, by simp only; rw [if_pos (show m.toNat > Config.payloadMax from h1)]⟩
  · refine .inr ?_
    by_cases h2 : s.rx.length < m.toNat + 7
    · refine .inl ⟨by omega, h2, ?_⟩
      simp only
      rw [if_neg (show ¬ m.toNat > Config.payloadMax from h1), if_pos (show avail s < m.toNat + Config.reqOverhead from h2)]
    · refine .inr ⟨by omega, by omega, ?_⟩
      simp only
      rw [if_neg (show ¬ m.toNat > Config.payloadMax from h1),
        if_neg (show ¬ avail s < m.toNat + Config.reqOverhead from h2)]
      rfl

/-- The fields of a request frame at the front of RX, read from RX itself (R192). -/
theorem reqFields_take (c : Cfg) (n : Nat) (rx : List Byte) :
    reqFields c n (rx.take (n + 7)) =
      { type := byteAt rx 0, sq := de16 (slice rx 1 2) c.seqOrder, cmp := de16 (slice rx 3 4) c.seqOrder,
        payload := slice rx 5 (4 + n), checksum := de16 (slice rx (5 + n) (6 + n)) c.crcOrder,
        covered := slice rx 0 (4 + n) } := by
  simp only [reqFields]
  rw [byteAt_take _ _ _ (by omega), slice_take _ _ _ _ (by omega), slice_take _ _ _ _ (by omega),
    slice_take _ _ _ _ (by omega), slice_take _ _ _ _ (by omega), slice_take _ _ _ _ (by omega)]

/-- The fields of a data-form reply at the front of RX, read from RX itself (R181). -/
theorem rspFields_take (c : Cfg) (n : Nat) (rx : List Byte) :
    rspFields c n (rx.take (n + 4)) =
      { type := byteAt rx 0, payload := slice rx 1 n, checksum := de16 (slice rx (n + 1) (n + 2)) c.crcOrder,
        cstate := byteAt rx (n + 3) } := by
  simp only [rspFields]
  rw [byteAt_take _ _ _ (by omega), byteAt_take _ _ _ (by omega), slice_take _ _ _ _ (by omega),
    slice_take _ _ _ _ (by omega)]

/-- `finish` with the code as a number (R243). -/
theorem finish_finished_code {x : Status} {out : Outputs} {code : Byte} (h : x.byte = code) (s s' : State)
    (he : s'.err = s.err) : Finished s (finish x out s') code out :=
  h ▸ finish_finished _ _ _ _ he

end Sys2Proof.Machine
end

