-- ==== Sys2Proof/Laws/HostAgent.lean ====
section
/-! SUPPORT. What the host's parts do, said once: a request's command, a round with a status-only reply, rounds one after
another, the transfer of a region, and the calls of an ended session. -/

namespace Sys2Proof.Machine

/-! Requests. -/

/-- Under a legal configuration the code of a kind names that kind (R6, R14). -/
theorem kindOf_typeCode_self {c : Cfg} (hw : c.wf = true) (k : ReqType) : kindOf c (c.typeCode k) = some k := by
  obtain ⟨k', hk'⟩ := Option.isSome_iff_exists.mp ((kindOf_isSome (c := c)).mpr ⟨k, rfl⟩)
  simp only [Cfg.wf, Bool.and_eq_true, Cfg.typeCodesDistinct, decide_eq_true_eq] at hw
  rw [hk', List.inj_on_of_nodup_map hw.1.1 (ReqType.mem_all k') (ReqType.mem_all k) (kindOf_typeCode hk')]

/-- A request whose payload the encoder takes (R161). -/
def Request.Encodable (r : Request) : Prop := r.payload.length ≤ 1024 ∧ (r.kind = .data → r.payload.length = 1024)

/-- An encodable request passes the encoder's checks (R161, R246). -/
theorem Request.Encodable.check {r : Request} (h : r.Encodable) {c : Cfg} (hw : c.wf = true) :
    reqCheck c (c.typeCode r.kind) r.payload = .ok := by
  rcases reqCheck_cases c (c.typeCode r.kind) r.payload with ⟨hk, _⟩ | ⟨k, hk, hc⟩
  · rw [kindOf_typeCode_self hw] at hk
    cases hk
  · rw [kindOf_typeCode_self hw] at hk
    cases hk
    rcases hc with ⟨hl, _⟩ | ⟨_, hd, hl, _⟩ | ⟨_, _, hc⟩
    · exact absurd h.1 (Nat.not_le.mpr hl)
    · exact absurd (h.2 hd) hl
    · exact hc

/-- The command of an encodable request finishes 0x00 and leaves RX and the configuration (R161, R164). -/
theorem issue_command {r : Request} (h : r.Encodable) {s : State} (hw : s.cfg.wf = true) :
    (issue (r.command s.cfg) s).code = 0x00 ∧ (issue (r.command s.cfg) s).rx = s.rx ∧
      (issue (r.command s.cfg) s).cfg = s.cfg := by
  have hc := h.check hw
  rcases r with ⟨k, p, sq | v⟩
  · have e : issue (Request.command s.cfg ⟨k, p, none⟩) s = stateAfter (execEncReqNext (s.cfg.typeCode k) p s) s := rfl
    rw [e, execEncReqNext_ok hc]
    exact ⟨rfl, rfl, rfl⟩
  · have e : issue (Request.command s.cfg ⟨k, p, some v⟩) s = stateAfter (execEncReq (s.cfg.typeCode k) v p s) s := rfl
    rw [e, execEncReq_ok hc]
    exact ⟨rfl, rfl, rfl⟩

/-! Rounds (R210). -/

/-- DEC_RSP of a status-only kind on a byte (R181, R182). -/
theorem issue_decRsp_statusOnly {k : ReqType} (hf : rspForm k = .statusOnly) {c : Cfg} (hw : c.wf = true) {s : State}
    (hc : s.cfg = c) {b : Byte} {rest : List Byte} (hr : s.rx = b :: rest) :
    issue (.decRsp (c.typeCode k)) s = finish (csClass b) (.stateByte b) (captureState b (dropRx 1 s)) := by
  subst hc
  have e : issue (.decRsp (s.cfg.typeCode k)) s = stateAfter (execDecRsp (s.cfg.typeCode k) s) s := rfl
  have hk := kindOf_typeCode_self hw k
  rcases execDecRsp_cases (s.cfg.typeCode k) s with ⟨hk', _⟩ | ⟨k', _, _, he⟩ | ⟨k', n, hk', hf', _⟩ | ⟨k', n, hk', hf', _⟩
  · rw [hk] at hk'; cases hk'
  · rw [e, he, decRspStatusOnly, hr]; rfl
  · rw [hk] at hk'; cases hk'; rw [hf] at hf'; cases hf'
  · rw [hk] at hk'; cases hk'; rw [hf] at hf'; cases hf'

/-- Sending an encodable request hands over one frame and leaves TX empty (R161, R210). -/
theorem sendRequest_of_encodable {r : Request} (h : r.Encodable) {s : State} (hw : s.cfg.wf = true) :
    ∃ s1 : State, s1.tx = [] ∧ s1.rx = s.rx ∧ s1.cfg = s.cfg ∧ ∀ reply,
      sendRequest r reply s =
        { state := (reply s1).1, sent := [(issue (r.command s.cfg) s).tx], result := (reply s1).2 } := by
  obtain ⟨h0, h1, h2⟩ := issue_command h hw
  refine ⟨stateAfter (hostTake (issue (r.command s.cfg) s).tx.length (issue (r.command s.cfg) s))
    (issue (r.command s.cfg) s), ?_, ?_, ?_, fun reply => ?_⟩
  · rw [hostTake_of_le (le_refl _)]; exact List.drop_length
  · rw [hostTake_of_le (le_refl _)]; exact h1
  · rw [hostTake_of_le (le_refl _)]; exact h2
  · rw [sendRequest]
    simp only
    rw [if_neg (not_not.mpr h0)]

/-- Everything a round with a status-only reply can do from empty streams (R210, R228, R229, R245): it hands over one frame,
unless it is abandoned before, and ends in the error that ackFailure names, or in OK with the streams empty again. -/
theorem hostRound_statusOnly {r : Request} (h : r.Encodable) (hf : rspForm r.kind = .statusOnly) (a : Arrival) {s : State}
    (hw : s.cfg.wf = true) (hr : s.rx = []) :
    (hostRound r a s).sent.length = (if a = .abandoned then 0 else 1) ∧
    match ackFailure a with
    | some e => (hostRound r a s).result = .error e
    | none => (hostRound r a s).result = .ok (.stateByte 0xAA) ∧ (hostRound r a s).state.cfg = s.cfg ∧
        (hostRound r a s).state.tx = [] ∧ (hostRound r a s).state.rx = [] := by
  obtain ⟨s1, h0, h1, h2, hs⟩ := sendRequest_of_encodable h hw
  rw [hr] at h1
  match a with
  | .abandoned => exact ⟨rfl, rfl⟩
  | .ioFailure => rw [hostRound, hs]; exact ⟨rfl, rfl⟩
  | .abandonedInFlight bs => rw [hostRound, hs]; exact ⟨rfl, rfl⟩
  | .bytes [] => rw [hostRound, hs]; exact ⟨rfl, by simp [ackFailure, replyResult]⟩
  | .bytes (b :: rest) =>
    rw [hostRound]
    simp only
    rw [hs]
    refine ⟨rfl, ?_⟩
    simp only
    rw [issue_decRsp_statusOnly (b := b) (rest := rest) hf hw (by exact h2) (by simp [h1])]
    rcases csClass_cases b with ⟨rfl, hb⟩ | ⟨rfl, hb⟩ | ⟨h3, h4, hb⟩
    · rw [hb]
      cases rest with
      | nil => simp [ackFailure, replyResult, errorKind, Status.byte, lastOutputs, h0, h1, h2]
      | cons c cs => simp [ackFailure, replyResult, errorKind, Status.byte, h1]
    · rw [hb]
      simp [ackFailure, replyResult, errorKind, Status.byte]
    · have ha : ackFailure (.bytes (b :: rest)) = some .framingError := by
        rw [ackFailure, if_neg h4, if_neg fun h => h3 h.1]
      rw [hb, ha]
      simp [replyResult, errorKind, Status.byte]

/-- No round, no frame. -/
@[simp] theorem runRounds_nil (arrivals : List Arrival) (s : State) :
    runRounds [] arrivals s = { state := s, sent := [], arrivals := arrivals, completed := 0, result := none } := rfl

/-- A failing round is the last (R218, R227). -/
theorem runRounds_cons_error {r : Request} {rs : List Request} {arrivals : List Arrival} {s : State} {k : ErrorKind}
    (h : (hostRound r (nextArrival arrivals) s).result = .error k) :
    runRounds (r :: rs) arrivals s =
      { state := (hostRound r (nextArrival arrivals) s).state, sent := (hostRound r (nextArrival arrivals) s).sent,
        arrivals := arrivals.tail, completed := 0, result := some k } := by
  rw [runRounds]
  simp only [h]

/-- After a round that completed, the others follow (R212). -/
theorem runRounds_cons_ok {r : Request} {rs : List Request} {arrivals : List Arrival} {s : State} {out : Outputs}
    (h : (hostRound r (nextArrival arrivals) s).result = .ok out) :
    let e := hostRound r (nextArrival arrivals) s
    let e' := runRounds rs arrivals.tail e.state
    runRounds (r :: rs) arrivals s =
      { state := e'.state, sent := e.sent ++ e'.sent, arrivals := e'.arrivals, completed := e'.completed + 1,
        result := e'.result } := by
  rw [runRounds]
  simp only [h]

/-! Transfers (R212 to R217). -/

/-- Every block has 1024 bytes (R214). -/
@[simp] theorem block_length (data : List Byte) (k : Nat) : (block data k).length = 1024 := by
  simp only [block, Config.dataBlock, List.length_append, List.length_replicate, List.length_take]
  omega

/-- One HEAD, the blocks, one TAIL (R212). -/
@[simp] theorem transferRequests_length (h : HostCfg) (chip : ChipInfo) (offset : Nat) (data : List Byte) :
    (transferRequests h chip offset data).length = numBlocks data.length + 2 := by
  simp only [transferRequests, List.length_append, List.length_cons, List.length_nil, List.length_map, List.length_range]
  omega

/-- The requests of a transfer are encodable, and their replies status-only (R95, R161). -/
theorem transferRequests_encodable {h : HostCfg} {chip : ChipInfo} {offset : Nat} {data : List Byte}
    (hh : (h.headPayload data.length offset chip).length ≤ 1024) (ht : h.tailPayload.length ≤ 1024) {r : Request}
    (hr : r ∈ transferRequests h chip offset data) : r.Encodable ∧ rspForm r.kind = .statusOnly := by
  simp only [transferRequests, List.mem_append, List.mem_cons, List.not_mem_nil, or_false, List.mem_map] at hr
  rcases hr with (rfl | ⟨k, _, rfl⟩) | rfl
  · exact ⟨⟨hh, fun h => nomatch h⟩, rfl⟩
  · exact ⟨⟨(block_length data k).le, fun _ => block_length data k⟩, rfl⟩
  · exact ⟨⟨ht, fun h => nomatch h⟩, rfl⟩

/-! Sessions (R220, R226, R227). -/

@[simp] theorem Session.fail_negotiation (e : SessionError) (x : Session) : (x.fail e).negotiation = .failed e := rfl
@[simp] theorem Session.fail_state (e : SessionError) (x : Session) : (x.fail e).state = x.state := rfl
@[simp] theorem Session.fail_sent (e : SessionError) (x : Session) : (x.fail e).sent = x.sent := rfl
@[simp] theorem Session.fail_arrivals (e : SessionError) (x : Session) : (x.fail e).arrivals = x.arrivals := rfl
@[simp] theorem Session.fail_chip (e : SessionError) (x : Session) : (x.fail e).chip = x.chip := rfl

@[simp] theorem Session.enter_negotiation (p : Phase) (x : Session) : (x.enter p).negotiation = .reached p := rfl
@[simp] theorem Session.enter_state (p : Phase) (x : Session) : (x.enter p).state = x.state := rfl
@[simp] theorem Session.enter_sent (p : Phase) (x : Session) : (x.enter p).sent = x.sent := rfl
@[simp] theorem Session.enter_arrivals (p : Phase) (x : Session) : (x.enter p).arrivals = x.arrivals := rfl
@[simp] theorem Session.enter_chip (p : Phase) (x : Session) : (x.enter p).chip = x.chip := rfl

theorem Session.answer_of_failed {x : Session} {e : SessionError} (h : x.negotiation = .failed e) :
    x.answer = .error e := by
  rw [answer, h]

theorem Session.answer_of_reached {x : Session} {p : Phase} (h : x.negotiation = .reached p) : x.answer = .ok () := by
  rw [answer, h]

/-- Everything a call can do (R220, R226, R227): it answers the error of a failed session, runs, or is turned away. -/
theorem Session.call_cases (allowed : Phase → Bool) (region : Option Region) (run : Session → Session) (x : Session) :
    (∃ e, x.negotiation = .failed e ∧ x.call allowed region run = (x, .error e)) ∨
    (∃ p, x.negotiation = .reached p ∧ allowed p = true ∧ x.call allowed region run = (run x, (run x).answer)) ∨
    (∃ p, x.negotiation = .reached p ∧ allowed p = false ∧
      let e : SessionError := { kind := .hostUsage, phase := p, region := region, byteOffset := 0 }
      x.call allowed region run = (if p = .done then x else x.fail e, .error e)) := by
  rw [call]
  cases h : x.negotiation with
  | failed e => exact .inl ⟨e, rfl, rfl⟩
  | reached p =>
    cases ha : allowed p
    · exact .inr (.inr ⟨p, rfl, ha, by simp [ha]⟩)
    · exact .inr (.inl ⟨p, rfl, ha, by simp [ha]⟩)

/-- A failed session answers its error and stays as it is (R227). -/
theorem Session.call_of_failed {allowed : Phase → Bool} {region : Option Region} {run : Session → Session} {x : Session}
    {e : SessionError} (h : x.negotiation = .failed e) : x.call allowed region run = (x, .error e) := by
  rw [call, h]

/-- A call in a state that allows it runs (R226). -/
theorem Session.call_of_allowed {allowed : Phase → Bool} {region : Option Region} {run : Session → Session} {x : Session}
    {p : Phase} (h : x.negotiation = .reached p) (ha : allowed p = true) :
    x.call allowed region run = (run x, (run x).answer) := by
  rw [call, h]
  simp only [ha, if_true]

/-- A state of the negotiation that is not the current one is not run (R220). -/
theorem runPhase_of_ne {h : HostCfg} {im : Images} {p : Phase} {x : Session} (hx : x.negotiation ≠ .reached p) :
    runPhase h im p x = x := if_neg hx

theorem runPhase_of_reached {h : HostCfg} {im : Images} {p : Phase} {x : Session} (hx : x.negotiation = .reached p) :
    runPhase h im p x = phaseBody h im p x := if_pos hx

/-- Every call on a failed session leaves it as it is and answers the error that ended it (R227). -/
theorem endedBy_of_failed {x : Session} {e : SessionError} (hx : x.negotiation = .failed e) : EndedBy x e := by
  refine ⟨hx, fun h => ?_, fun h kind offset length data => Session.call_of_failed hx,
    fun h im => Session.call_of_failed hx⟩
  rw [Session.queryChip, Session.call_of_failed hx]
  rfl

theorem afterTransfer_of_ok {kind : Region} {len : Nat} {e : RoundsEnd} (h : e.result = none) :
    afterTransfer kind len e = .reached kind.phase.next := by
  rw [afterTransfer, h]

theorem afterTransfer_of_error {kind : Region} {len : Nat} {e : RoundsEnd} {k : ErrorKind} (h : e.result = some k) :
    afterTransfer kind len e = .failed (regionError kind k (acknowledgedBytes len e.completed)) := by
  rw [afterTransfer, h]

/-- An abandoned session has ended (R229). -/
theorem endedBy_abandon {x : Session} {p : Phase} (hx : x.negotiation = .reached p) (hp : p ≠ .done) :
    EndedBy x.abandon (phaseError p .abandoned) := by
  refine endedBy_of_failed ?_
  rw [Session.abandon, hx]
  simp only [if_neg hp, Session.fail_negotiation]

/-- The transfer of a region on a session that has a chip and enough bytes (R211, R226). -/
theorem regionPhase_of_chip {h : HostCfg} {kind : Region} {offset : ChipInfo → Nat} {length : Nat} {data : List Byte}
    {x : Session} {chip : ChipInfo} (hc : x.chip = some chip) (hl : length ≤ data.length) :
    let e := transfer h chip (offset chip) (data.take length) x.arrivals x.state
    regionPhase h kind offset length data x =
      { x with
        state := e.state
        arrivals := e.arrivals
        sent := x.sent ++ e.sent
        negotiation := afterTransfer kind length e } := by
  rw [regionPhase]
  simp only [hc, if_neg (Nat.not_lt.mpr hl)]

end Sys2Proof.Machine
end

