-- ==== Sys2Proof/Laws/PerInstr.lean ====
section
/-! SUPPORT. A fact about every command as syntax, one lemma per constructor: a message is as long as its operands make it
(R85). -/

namespace Sys2Proof.Laws

/-- R85: the message of a command is 1 plus the sum of its operands' lengths. -/
def EncodedLength.Statement (i : Instr) : Prop :=
  (encode i).length = 1 + (i.operands.map Operand.size).sum

/-- The length of several operands' bytes (R85). -/
theorem flatMap_bytes_length (os : List Operand) :
    (os.flatMap Operand.bytes).length = (os.map Operand.size).sum := by
  induction os with
  | nil => rfl
  | cons o os ih => simp [ih]

/-- R85, for any command. -/
theorem encode_length (i : Instr) : EncodedLength.Statement i := by
  simp only [EncodedLength.Statement, encode, List.length_cons, flatMap_bytes_length]
  omega

theorem EncodedLength.crcClear : EncodedLength.Statement (.crcClear) := encode_length _
theorem EncodedLength.crcUpdate (b : Byte) : EncodedLength.Statement (.crcUpdate b) := encode_length _
theorem EncodedLength.crcFinal : EncodedLength.Statement (.crcFinal) := encode_length _
theorem EncodedLength.crcCompute (d : List Byte) : EncodedLength.Statement (.crcCompute d) := encode_length _
theorem EncodedLength.crcCheck (d : List Byte) (v : Half) : EncodedLength.Statement (.crcCheck d v) := encode_length _
theorem EncodedLength.seqRestart : EncodedLength.Statement (.seqRestart) := encode_length _
theorem EncodedLength.seqNext : EncodedLength.Statement (.seqNext) := encode_length _
theorem EncodedLength.seqPeek : EncodedLength.Statement (.seqPeek) := encode_length _
theorem EncodedLength.seqCheck (sq c : Half) : EncodedLength.Statement (.seqCheck sq c) := encode_length _
theorem EncodedLength.encReq (t : Byte) (sq : Half) (p : List Byte) : EncodedLength.Statement (.encReq t sq p) := encode_length _
theorem EncodedLength.encReqNext (t : Byte) (p : List Byte) : EncodedLength.Statement (.encReqNext t p) := encode_length _
theorem EncodedLength.encRspData (t : Byte) (p : List Byte) (cs : Byte) : EncodedLength.Statement (.encRspData t p cs) := encode_length _
theorem EncodedLength.encRspStatus (cs : Byte) : EncodedLength.Statement (.encRspStatus cs) := encode_length _
theorem EncodedLength.decRsp (t : Byte) : EncodedLength.Statement (.decRsp t) := encode_length _
theorem EncodedLength.decReq (n : Half) : EncodedLength.Statement (.decReq n) := encode_length _
theorem EncodedLength.csClassify (b : Byte) : EncodedLength.Statement (.csClassify b) := encode_length _
theorem EncodedLength.parseChipInfo (p : List Byte) : EncodedLength.Statement (.parseChipInfo p) := encode_length _
theorem EncodedLength.parseBoard (p : List Byte) : EncodedLength.Statement (.parseBoard p) := encode_length _

end Sys2Proof.Laws
end

