-- ==== Sys2Proof/Tests/Slice0.lean ====
section
/-! SUPPORT. Tests: the WellFormed smoke, one message per command written out from R82 and R83, the reserved and malformed
messages, small steps whose expected values are the vectors of spec/95_test_vectors.md (named V-... and 2.x), and a witness for
every statement that has hypotheses. The configuration is EX (R8), in which the spec computed its vectors. -/

namespace Sys2Proof.Tests

set_option maxRecDepth 20000

open Sys2Proof Sys2Proof.Machine

/-- The reset state under EX. -/
def ex : State := State.resetWith Cfg.ex

/-- ex with RX holding bytes. -/
def exRx (bs : List Byte) : State := { ex with rx := bs }

/-- What a vector's result and end state say of a command: outputs, STATUS as read, TX and RX. -/
def shows (i : Instr) (s : State) (out : Outputs) (status : Word) (tx rx : List Byte) : Bool :=
  let t := issue i s
  decide (lastOutputs t = out ∧ readRegValue t 2 = status ∧ t.tx = tx ∧ t.rx = rx)

/-! Well-formedness: each check refuses an ill-formed term. -/

theorem test_str_65535_wf : (Instr.crcCompute (List.replicate 65535 0)).wf = true := by
  simp only [Instr.wf, Instr.operands, Operand.wf, List.all_cons, List.all_nil, List.length_replicate]; rfl

theorem test_str_65536_not_wf : (Instr.crcCompute (List.replicate 65536 0)).wf = false := by
  simp only [Instr.wf, Instr.operands, Operand.wf, List.all_cons, List.all_nil, List.length_replicate]; rfl

theorem test_half_wf : (Instr.decReq 0xFFFF).wf = true := by decide

theorem test_ex_wf : Cfg.ex.wf = true := by decide

theorem test_duplicate_code_not_wf :
    { Cfg.ex with typeCodes := { Cfg.ex.typeCodes with tail := 0x01 } }.wf = false := by decide

theorem test_code_with_bit7_not_wf :
    { Cfg.ex with typeCodes := { Cfg.ex.typeCodes with board := 0x85 } }.wf = false := by decide

theorem test_equal_flag_bits_not_wf : { Cfg.ex with teeBit := 0 }.wf = false := by decide

/-! Decoding: every command's message, written out from R82 and R83. -/

theorem test_decode_crcClear : decode [0x00] = .ok .crcClear := rfl
theorem test_decode_crcUpdate : decode [0x01, 0x31] = .ok (.crcUpdate 0x31) := rfl
theorem test_decode_crcFinal : decode [0x02] = .ok .crcFinal := rfl
theorem test_decode_crcCompute : decode [0x03, 0x02, 0x00, 0x31, 0x32] = .ok (.crcCompute [0x31, 0x32]) := rfl
theorem test_decode_crcCheck :
    decode [0x04, 0x02, 0x00, 0x31, 0x32, 0xC3, 0x31] = .ok (.crcCheck [0x31, 0x32] 0x31C3) := rfl
theorem test_decode_seqRestart : decode [0x10] = .ok .seqRestart := rfl
theorem test_decode_seqNext : decode [0x11] = .ok .seqNext := rfl
theorem test_decode_seqPeek : decode [0x12] = .ok .seqPeek := rfl
theorem test_decode_seqCheck : decode [0x13, 0x34, 0x12, 0xCB, 0xED] = .ok (.seqCheck 0x1234 0xEDCB) := rfl
theorem test_decode_encReq :
    decode [0x20, 0x02, 0x34, 0x12, 0x02, 0x00, 0xC8, 0x01] = .ok (.encReq 0x02 0x1234 [0xC8, 0x01]) := rfl
theorem test_decode_encReqNext : decode [0x21, 0x01, 0x01, 0x00, 0x7F] = .ok (.encReqNext 0x01 [0x7F]) := rfl
theorem test_decode_encRspData :
    decode [0x22, 0x05, 0x02, 0x00, 0x10, 0x20, 0xAA] = .ok (.encRspData 0x05 [0x10, 0x20] 0xAA) := rfl
theorem test_decode_encRspStatus : decode [0x23, 0x55] = .ok (.encRspStatus 0x55) := rfl
theorem test_decode_decRsp : decode [0x30, 0x01] = .ok (.decRsp 0x01) := rfl
theorem test_decode_decReq : decode [0x31, 0x01, 0x04] = .ok (.decReq 0x0401) := rfl
theorem test_decode_csClassify : decode [0x32, 0xA5] = .ok (.csClassify 0xA5) := rfl
theorem test_decode_parseChipInfo : decode [0x33, 0x01, 0x00, 0x07] = .ok (.parseChipInfo [0x07]) := rfl
theorem test_decode_parseBoard : decode [0x34, 0x02, 0x00, 0x12, 0x34] = .ok (.parseBoard [0x12, 0x34]) := rfl

/-- A table word, bit 0 the least significant bit of the code byte, with operand bytes of zeros after it (log 7). -/
theorem test_tableWord_encReq : decodeTableWord 8 0x20 = some (.encReq 0x00 0x0000 []) := rfl

theorem test_tableWord_reserved : decodeTableWord 8 0x40 = none := rfl

/-- Section 2.7: the reserved codes. -/
theorem test_reserved_codes :
    ∀ c ∈ [0x05, 0x14, 0x24, 0x35, 0x40, 0xFF], decode [c] = .error (.reservedCode c) := by decide

/-- Section 2.7: the malformed messages. -/
theorem test_malformed_messages :
    decode [] = .error .emptyMessage ∧ decode [0x01] = .error .tooFewBytes ∧
    decode [0x00, 0x00] = .error .bytesLeftOver ∧ decode [0x13, 0x00, 0x00, 0xFF] = .error .tooFewBytes ∧
    decode [0x03, 0x05, 0x00, 0x31, 0x32] = .error .tooFewBytes ∧
    decode [0x30, 0x01, 0x00] = .error .bytesLeftOver := ⟨rfl, rfl, rfl, rfl, rfl, rfl⟩

/-! The CRC engine (sections 2.1 and 2.2). -/

def digits : List Byte := [0x31, 0x32, 0x33, 0x34, 0x35, 0x36, 0x37, 0x38, 0x39]

/-- 2.1: CRC-16/XMODEM. -/
theorem test_crc_xmodem : crc16 Cfg.ex digits = 0x31C3 := by decide

/-- 2.1: CRC-16/MODBUS, reflected. -/
theorem test_crc_modbus :
    crc16 { Cfg.ex with crcPoly := 0x8005, crcInit := 0xFFFF, crcRefIn := true, crcRefOut := true } digits = 0x4B37 := by
  decide

/-- 2.1: CRC-16/GENIBUS, with a final XOR. -/
theorem test_crc_genibus :
    crc16 { Cfg.ex with crcInit := 0xFFFF, crcXorOut := 0xFFFF } digits = 0xD64E := by decide

/-- V-CRC-1. -/
theorem test_crcClear : (issue .crcClear { ex with crcAcc := 0xBEEF }).crcAcc = 0x0000 := by decide

/-- V-CRC-7. -/
theorem test_crcUpdate : (issue (.crcUpdate 0x32) { ex with crcAcc := 0x2672 }).crcAcc = 0x20B5 := by decide

/-- V-CRC-9. -/
theorem test_crcFinal : shows .crcFinal { ex with crcAcc := 0x31C3 } (.checksum 0x31C3) 0x00000000 [] [] = true := by
  decide

/-- V-CRC-13. -/
theorem test_crcCompute :
    shows (.crcCompute [0x01, 0x00, 0x00, 0xFF, 0xFF]) ex (.checksum 0xB75E) 0x00000000 [] [] = true := by decide

/-- V-CRC-16. -/
theorem test_crcCheck_ok : shows (.crcCheck digits 0x31C3) ex (.checksum 0x31C3) 0x00000000 [] [] = true := by decide

/-- V-CRC-17. -/
theorem test_crcCheck_bad : shows (.crcCheck digits 0xC331) ex (.checksum 0x31C3) 0x00020020 [] [] = true := by decide

/-! The sequence counter (section 2.3). -/

/-- V-SEQ-7. -/
theorem test_seqRestart : (issue .seqRestart { ex with seqCnt := 154 }).seqCnt = 0 := by decide

/-- V-SEQ-5: the wrap. -/
theorem test_seqNext_wraps :
    (issue .seqNext { ex with seqCnt := 255 }).seqCnt = 0 ∧
    shows .seqNext { ex with seqCnt := 255 } (.seqPair 0x00FF 0xFF00) 0x00000000 [] [] = true := by decide

/-- V-SEQ-6. -/
theorem test_seqPeek :
    (issue .seqPeek { ex with seqCnt := 255 }).seqCnt = 255 ∧
    shows .seqPeek { ex with seqCnt := 255 } (.seqPair 0x00FF 0xFF00) 0x00000000 [] [] = true := by decide

/-- V-SEQ-10. -/
theorem test_seqCheck_ok : shows (.seqCheck 0x1234 0xEDCB) ex .absent 0x00000000 [] [] = true := by decide

/-- V-SEQ-16: one bit of the complement wrong. -/
theorem test_seqCheck_bad : shows (.seqCheck 0x0000 0x7FFF) ex .absent 0x00020030 [] [] = true := by decide

/-! The encoder (section 2.4). -/

/-- V-ENC-5. -/
theorem test_encReq :
    shows (.encReq 0x01 0x1234 []) ex (.frameLen 7) 0x00000000 [0x01, 0x34, 0x12, 0xCB, 0xED, 0x87, 0x67] [] = true := by
  decide

/-- V-ENC-12: a response type is no request type. -/
theorem test_encReq_badType : shows (.encReq 0x81 0x0000 []) ex .absent 0x00020041 [] [] = true := by decide

/-- V-ENC-18. -/
theorem test_encReqNext :
    (issue (.encReqNext 0x01 []) { ex with seqCnt := 255 }).seqCnt = 0 ∧
    shows (.encReqNext 0x01 []) { ex with seqCnt := 255 } (.frameLenSeq 7 0x00FF) 0x00000000
      [0x01, 0xFF, 0x00, 0x00, 0xFF, 0xFF, 0x02] [] = true := by decide

/-- V-ENC-20: a failing command leaves the counter. -/
theorem test_encReqNext_bad :
    (issue (.encReqNext 0x03 (List.replicate 10 0)) { ex with seqCnt := 7 }).seqCnt = 7 ∧
    shows (.encReqNext 0x03 (List.replicate 10 0)) { ex with seqCnt := 7 } .absent 0x00020042 [] [] = true := by decide

/-- V-ENC-24. -/
theorem test_encRspData :
    shows (.encRspData 0x05 [0x00, 0x00, 0x00, 0x00, 0x00, 0x10, 0x00] 0xAA) ex (.frameLen 11) 0x00000000
      [0x85, 0x00, 0x00, 0x00, 0x00, 0x00, 0x10, 0x00, 0xB6, 0x4C, 0xAA] [] = true := by decide

/-- V-ENC-26: a HEAD request has no data-form response. -/
theorem test_encRspData_badKind : shows (.encRspData 0x02 [] 0xAA) ex .absent 0x00020041 [] [] = true := by decide

/-- V-ENC-30. -/
theorem test_encRspStatus :
    shows (.encRspStatus 0x55) { ex with tx := [0x01] } (.frameLen 1) 0x00000000 [0x01, 0x55] [] = true := by decide

/-- V-CFG-4: the two byte orders are separate. -/
theorem test_encReq_orders :
    (issue (.encReq 0x01 0x0001 []) (State.resetWith { Cfg.ex with seqOrder := .be, crcOrder := .le })).tx =
      [0x01, 0x00, 0x01, 0xFF, 0xFE, 0x4F, 0x90] := by decide

/-- V-CFG-6: a response checksum over the payload only. -/
theorem test_encRspData_span :
    (issue (.encRspData 0x01 [0x00, 0x00, 0x00, 0x00, 0x01, 0x02, 0x03, 0x12, 0x34, 0x56, 0x78] 0xAA)
      (State.resetWith { Cfg.ex with rspCrcSpan := .payloadOnly })).tx =
      [0x81, 0x00, 0x00, 0x00, 0x00, 0x01, 0x02, 0x03, 0x12, 0x34, 0x56, 0x78, 0x69, 0xDF, 0xAA] := by decide

/-! The decoder (section 2.6). -/

/-- The QUERY reply of V-DEC-1 up to its checksum_state byte. -/
def queryReply : List Byte :=
  [0x81, 0x00, 0x00, 0x00, 0x00, 0x01, 0x02, 0x03, 0x12, 0x34, 0x56, 0x78, 0xC0, 0x0B]

def queryPayload : List Byte := [0x00, 0x00, 0x00, 0x00, 0x01, 0x02, 0x03, 0x12, 0x34, 0x56, 0x78]

/-- V-DEC-13: surplus bytes stay. -/
theorem test_decRsp_ok :
    shows (.decRsp 0x01) (exRx (queryReply ++ [0xAA, 0xAA, 0x01])) (.response 0x81 queryPayload 0xC00B 0xAA) 0x0001AA00 []
      [0xAA, 0x01] = true := by decide

/-- V-DEC-10: one byte short. -/
theorem test_decRsp_short : shows (.decRsp 0x01) (exRx queryReply) .absent 0x00020010 [] [] = true := by decide

/-- V-DEC-25. -/
theorem test_decReq_ok :
    shows (.decReq 0) (exRx [0x01, 0x00, 0x00, 0xFF, 0xFF, 0xB7, 0x5E]) (.request 0x01 0x0000 0xFFFF [] 0xB75E)
      0x00000000 [] [] = true := by decide

/-- V-DEC-30. -/
theorem test_decReq_complement :
    shows (.decReq 0) (exRx [0x01, 0x00, 0x00, 0xFE, 0xFF, 0xB7, 0x5E]) (.request 0x01 0x0000 0xFFFE [] 0xB75E)
      0x00020030 [] [] = true := by decide

/-- V-DEC-44. -/
theorem test_csClassify_bad : shows (.csClassify 0x55) ex .absent 0x00035501 [] [] = true := by decide

/-- V-DEC-47. -/
theorem test_csClassify_other : shows (.csClassify 0xA5) ex .absent 0x0003A512 [] [] = true := by decide

/-- V-DEC-50. -/
theorem test_parseChipInfo :
    shows (.parseChipInfo [0x02, 0x00, 0x00, 0x00, 0x01, 0x02, 0x03, 0x12, 0x34, 0x56, 0x78]) ex
      (.chipInfo false true false 0x00010203 0x12345678) 0x00000000 [] [] = true := by decide

/-- V-DEC-58. -/
theorem test_parseBoard :
    shows (.parseBoard [0xFF, 0xFF, 0xFF, 0x12, 0x34, 0x56, 0x78]) ex (.boardValue 0x12345678) 0x00000000 [] [] = true := by
  decide

/-- V-CFG-8. -/
theorem test_parseBoard_le :
    lastOutputs (issue (.parseBoard [0x00, 0x00, 0x00, 0x00, 0x00, 0x10, 0x00])
      (State.resetWith { Cfg.ex with boardOrder := .le })) = .boardValue 0x00100000 := by decide

/-! The register read port (section 2.8). -/

def regState : State :=
  { ex with seqCnt := 0xFF, crcAcc := 0x31C3, code := 0x12, cstate := 0x42, csValid := true, err := true }

/-- V-REG-1 to V-REG-5. -/
theorem test_readReg :
    readRegValue regState 0 = 0x000000FF ∧ readRegValue regState 1 = 0x000031C3 ∧ readRegValue regState 2 = 0x00034212 ∧
    readRegValue regState 3 = 0 ∧ readRegValue regState 0xFFFFFFFF = 0 := by
  refine ⟨by decide, by decide +kernel, by decide +kernel, rfl, rfl⟩

/-! The host (44_host_sequences.md). -/

/-- S3 and S11: L = 0, 200, 2048 and 2500 make 0, 1, 2 and 3 blocks. -/
theorem test_numBlocks : numBlocks 0 = 0 ∧ numBlocks 200 = 1 ∧ numBlocks 2048 = 2 ∧ numBlocks 2500 = 3 := by decide

/-- R68. -/
theorem test_launch_two_hosts : launch 2 Cfg.ex = .refused .moreThanOneHost := rfl

/-- I16. -/
theorem test_launch_illegal : launch 1 { Cfg.ex with teeBit := 0 } = .refused .illegalConfiguration := rfl

theorem test_launch_legal : launch 1 Cfg.ex = .next (State.resetWith Cfg.ex) := rfl

/-! Witnesses: a state and operands that meet each statement's hypotheses, and one for each clause at the boundary of its
range. -/

/-- The code a command finishes with. -/
def codeOf (i : Instr) (s : State) : Byte := (issue i s).code

def zeros (n : Nat) : List Byte := List.replicate n 0x00

theorem zeros_length (n : Nat) : (zeros n).length = n := List.length_replicate

/-- ex with one pending action. -/
def exPort (a : HostAction) : State := { ex with port := [a] }

theorem witness_CrcUpdateZeroChangesNonzeroAcc :
    Cfg.ex.wf = true ∧ ({ ex with crcAcc := 0xF01F } : State).crcAcc ≠ 0 ∧
    ∃ t, exec (.crcUpdate 0x00) { ex with crcAcc := 0xF01F } = .next t := ⟨by decide, by decide, _, rfl⟩

/-- 1031 bytes is the longest string, 1032 one too long. -/
theorem witness_CrcComputeOutputsChecksum :
    codeOf (.crcCompute (zeros 1031)) ex = 0x00 ∧ codeOf (.crcCompute (zeros 1032)) ex = 0x42 := ⟨rfl, rfl⟩

theorem witness_CrcCheckComparesChecksum :
    ¬ (zeros 1031).length > 1031 ∧ codeOf (.crcCheck (zeros 1032) 0) ex = 0x42 :=
  ⟨by simp [zeros_length], rfl⟩

theorem witness_IncrementalCrcAgreesWithWhole : (zeros 1031).length ≤ 1031 := by simp [zeros_length]

theorem witness_SeqCheckComparesAllSixteenBits :
    codeOf (.seqCheck 0xFFFF 0x0000) ex = 0x00 ∧ codeOf (.seqCheck 0xFFFF 0x8000) ex = 0x30 := by decide

/-- Each clause of ENC_REQ: no kind, 1025 bytes, DATA with 1023, DATA with 1024, another kind with 0 and 1024. -/
theorem witness_EncReqEmitsRequestFrame :
    codeOf (.encReq 0x00 0 (zeros 1025)) ex = 0x41 ∧ codeOf (.encReq 0x01 0 (zeros 1025)) ex = 0x42 ∧
    codeOf (.encReq 0x03 0 (zeros 1023)) ex = 0x42 ∧ codeOf (.encReq 0x03 0 (zeros 1024)) ex = 0x00 ∧
    codeOf (.encReq 0x01 0xFFFF []) ex = 0x00 ∧ codeOf (.encReq 0x05 0 (zeros 1024)) ex = 0x00 :=
  ⟨rfl, rfl, rfl, rfl, rfl, rfl⟩

theorem witness_EncReqNextTakesCounterValue :
    codeOf (.encReqNext 0x80 []) ex = 0x41 ∧ codeOf (.encReqNext 0x01 (zeros 1025)) ex = 0x42 ∧
    codeOf (.encReqNext 0x03 (zeros 1023)) ex = 0x42 ∧ codeOf (.encReqNext 0x03 (zeros 1024)) ex = 0x00 ∧
    codeOf (.encReqNext 0x04 []) { ex with seqCnt := 0xFF } = 0x00 := ⟨rfl, rfl, rfl, rfl, rfl⟩

/-- Both clauses: DATA with 1024 bytes, and with 1023. -/
theorem witness_EncReqNextIsSeqNextThenEncReq :
    ((kindOf ex.cfg 0x03).isSome ∧ (zeros 1024).length ≤ 1024 ∧
      (kindOf ex.cfg 0x03 = some .data → (zeros 1024).length = 1024)) ∧
    ¬ ((kindOf ex.cfg 0x03).isSome ∧ (zeros 1023).length ≤ 1024 ∧
      (kindOf ex.cfg 0x03 = some .data → (zeros 1023).length = 1024)) := by
  simp only [zeros_length]; decide

theorem witness_RequestEncodersGrowTx :
    (∃ u, exec (.encReq 0x03 0 (zeros 1024)) ex = .next u ∧ u.code = 0x00 ∧ kindOf ex.cfg 0x03 = some .data) ∧
    (∃ u, exec (.encReqNext 0x01 []) ex = .next u ∧ u.code = 0x00) := ⟨⟨_, rfl, rfl, rfl⟩, ⟨_, rfl, rfl⟩⟩

/-- Each clause of ENC_RSP_DATA. -/
theorem witness_EncRspDataEmitsDataForm :
    codeOf (.encRspData 0x81 (zeros 11) 0xAA) ex = 0x41 ∧ codeOf (.encRspData 0x02 [] 0xAA) ex = 0x41 ∧
    codeOf (.encRspData 0x01 (zeros 10) 0xAA) ex = 0x42 ∧ codeOf (.encRspData 0x01 (zeros 11) 0x55) ex = 0x00 ∧
    codeOf (.encRspData 0x05 (zeros 8) 0xAA) ex = 0x42 ∧ codeOf (.encRspData 0x05 (zeros 7) 0x00) ex = 0x00 :=
  ⟨rfl, rfl, rfl, rfl, rfl, rfl⟩

/-- DEC_RSP: no kind; status-only with 0 and 1 bytes; data form one byte short and whole. -/
theorem witness_DecRspDecodesReply_lengths :
    codeOf (.decRsp 0x81) (exRx [0xAA]) = 0x41 ∧ codeOf (.decRsp 0x02) ex = 0x10 ∧
    codeOf (.decRsp 0x02) (exRx [0xAA]) = 0x00 ∧ codeOf (.decRsp 0x01) (exRx (zeros 14)) = 0x10 ∧
    codeOf (.decRsp 0x01) (exRx (zeros 15)) = 0x11 ∧ codeOf (.decRsp 0x05) (exRx (zeros 10)) = 0x10 ∧
    codeOf (.decRsp 0x05) (exRx (zeros 11)) = 0x11 := by decide

/-- DEC_RSP: the verdicts on a whole data-form reply (V-DEC-8, V-DEC-4, V-DEC-2, V-DEC-1). -/
theorem witness_DecRspDecodesReply_verdicts :
    codeOf (.decRsp 0x01) (exRx (queryReply ++ [0x00])) = 0x12 ∧
    codeOf (.decRsp 0x01) (exRx (queryReply.set 13 0x0C ++ [0x55])) = 0x20 ∧
    codeOf (.decRsp 0x01) (exRx (queryReply ++ [0x55])) = 0x01 ∧
    codeOf (.decRsp 0x01) (exRx (queryReply ++ [0xAA])) = 0x00 := by decide

/-- DEC_REQ: a length of 1025; one byte short; the verdicts (V-DEC-34, V-DEC-29, V-DEC-32, V-DEC-25). -/
theorem witness_DecReqDecodesRequest :
    codeOf (.decReq 0x0401) ex = 0x42 ∧ codeOf (.decReq 0x0400) ex = 0x10 ∧ codeOf (.decReq 0) (exRx (zeros 6)) = 0x10 ∧
    codeOf (.decReq 0) (exRx [0x81, 0x00, 0x00, 0xFF, 0xFF, 0xB7, 0x5E]) = 0x11 ∧
    codeOf (.decReq 0) (exRx [0x01, 0x01, 0x00, 0xFF, 0xFF, 0xB7, 0x5E]) = 0x30 ∧
    codeOf (.decReq 0) (exRx [0x01, 0x00, 0x00, 0xFF, 0xFF, 0xB7, 0x5F]) = 0x20 ∧
    codeOf (.decReq 0) (exRx [0x01, 0x00, 0x00, 0xFF, 0xFF, 0xB7, 0x5E]) = 0x00 := by decide

/-- The frame of V-ENC-1. -/
def frame1 : List Byte := [0x01, 0x00, 0x00, 0xFF, 0xFF, 0xB7, 0x5E]

theorem frame1_valid : ValidRequest Cfg.ex 0 frame1 := by
  unfold ValidRequest
  decide

theorem witness_DecReqAcceptsExactlyValidFrames :
    ((0 : Half).toNat ≤ 1024 ∧ frame1.length = 7 + (0 : Half).toNat ∧ (exRx (frame1 ++ [0x01])).rx = frame1 ++ [0x01]) ∧
    ((0x0400 : Half).toNat ≤ 1024 ∧ (zeros 1031).length = 7 + (0x0400 : Half).toNat ∧
      (exRx (zeros 1031)).rx = zeros 1031 ++ []) :=
  ⟨⟨by decide, rfl, rfl⟩, by decide, by rw [zeros_length]; rfl, by simp [exRx]⟩

theorem witness_SequenceCorruptionIsCaught_seq :
    ValidRequest ex.cfg (0 : Half).toNat frame1 ∧ (frame1.set 1 0x01).length = frame1.length ∧
    (∀ i, i ≠ 1 → i ≠ 1 + 1 → byteAt (frame1.set 1 0x01) i = byteAt frame1 i) ∧
    slice (frame1.set 1 0x01) 1 (1 + 1) ≠ slice frame1 1 (1 + 1) := by
  refine ⟨frame1_valid, rfl, fun i h1 h2 => ?_, by decide⟩
  match i with
  | 0 => rfl
  | 1 => exact absurd rfl h1
  | 2 => exact absurd rfl h2
  | n + 3 => rfl

theorem witness_SequenceCorruptionIsCaught_complement :
    ValidRequest ex.cfg (0 : Half).toNat frame1 ∧ (frame1.set 4 0xFE).length = frame1.length ∧
    (∀ i, i ≠ 3 → i ≠ 3 + 1 → byteAt (frame1.set 4 0xFE) i = byteAt frame1 i) ∧
    slice (frame1.set 4 0xFE) 3 (3 + 1) ≠ slice frame1 3 (3 + 1) := by
  refine ⟨frame1_valid, rfl, fun i h1 h2 => ?_, by decide⟩
  match i with
  | 0 | 1 | 2 => rfl
  | 3 => exact absurd rfl h1
  | 4 => exact absurd rfl h2
  | n + 5 => rfl

theorem witness_RequestRoundTrip :
    ex.tx = [] ∧ ex.rx = [] ∧
    (∃ s1, exec (.encReq 0x01 0xFFFF []) ex = .next s1 ∧ s1.code = 0x00) ∧
    (∃ s1, exec (.encReq 0x03 0x00FF (zeros 1024)) ex = .next s1 ∧ s1.code = 0x00) :=
  ⟨rfl, rfl, ⟨_, rfl, rfl⟩, ⟨_, rfl, rfl⟩⟩

theorem witness_ResponseRoundTrip :
    ex.tx = [] ∧ ex.rx = [] ∧
    (∃ s1, exec (.encRspData 0x01 (zeros 11) 0xAA) ex = .next s1 ∧ s1.code = 0x00) ∧
    (∃ s1, exec (.encRspData 0x05 (zeros 7) 0x55) ex = .next s1 ∧ s1.code = 0x00) ∧
    (kindOf ex.cfg 0x02 = some .head ∧ rspForm .head = .statusOnly ∧
      ∃ s1, exec (.encRspStatus 0x00) ex = .next s1) :=
  ⟨rfl, rfl, ⟨_, rfl, rfl⟩, ⟨_, rfl, rfl⟩, rfl, rfl, _, rfl⟩

theorem witness_CsClassifyCapturesOperand :
    codeOf (.csClassify 0xAA) ex = 0x00 ∧ codeOf (.csClassify 0x55) ex = 0x01 ∧ codeOf (.csClassify 0x00) ex = 0x12 := by
  decide

theorem witness_ParseChipInfoSplitsFields :
    codeOf (.parseChipInfo (zeros 10)) ex = 0x42 ∧ codeOf (.parseChipInfo (zeros 11)) ex = 0x00 ∧
    codeOf (.parseChipInfo (zeros 12)) ex = 0x42 := by decide

theorem witness_ParseBoardExtractsValue :
    codeOf (.parseBoard (zeros 6)) ex = 0x42 ∧ codeOf (.parseBoard (zeros 7)) ex = 0x00 ∧
    codeOf (.parseBoard (zeros 8)) ex = 0x42 := by decide

/-- Two different payloads of each length that agree where the statement asks (V-DEC-48, V-DEC-53, V-DEC-54). -/
theorem witness_ReservedFieldsAreIgnored :
    (let p : List Byte := [0x00, 0x00, 0x00, 0x00, 0x01, 0x02, 0x03, 0x12, 0x34, 0x56, 0x78]
     let q : List Byte := [0xF8, 0xFF, 0xEE, 0x00, 0x01, 0x02, 0x03, 0x12, 0x34, 0x56, 0x78]
     p ≠ q ∧ p.length = 11 ∧ q.length = 11 ∧
     (∀ i, i = ex.cfg.caBit ∨ i = ex.cfg.teeBit ∨ i = ex.cfg.multiformBit →
       (byteAt p 0).getLsbD i = (byteAt q 0).getLsbD i) ∧
     (∀ i, 3 ≤ i → byteAt p i = byteAt q i)) ∧
    (let p : List Byte := [0x00, 0x00, 0x00, 0x12, 0x34, 0x56, 0x78]
     let q : List Byte := [0xFF, 0xFF, 0xFF, 0x12, 0x34, 0x56, 0x78]
     p ≠ q ∧ p.length = 7 ∧ q.length = 7 ∧ (∀ i, 3 ≤ i → byteAt p i = byteAt q i)) := by
  refine ⟨⟨by decide, rfl, rfl, by decide, fun i hi => ?_⟩, by decide, rfl, rfl, fun i hi => ?_⟩
  · obtain ⟨k, rfl⟩ := Nat.exists_eq_add_of_le' hi
    rfl
  · obtain ⟨k, rfl⟩ := Nat.exists_eq_add_of_le' hi
    rfl

theorem witness_DecodeRecoversEncodedCommand :
    (Instr.crcCompute (List.replicate 65535 0)).wf = true ∧ (Instr.seqCheck 0xFFFF 0xFFFF).wf = true :=
  ⟨test_str_65535_wf, rfl⟩

theorem witness_DecodedMessageIsItsCommandsMessage : decode [0x03, 0x00, 0x00] = .ok (.crcCompute []) := rfl

theorem witness_MalformedMessageChangesOnlyStatus :
    ∀ i : Instr, i.wf = true → encode i ≠ [0x05] := by
  intro i _ h
  cases i <;> simp [encode, Instr.code] at h

/-- The first and the last reserved unit. -/
theorem witness_UnitsOfCommandCodes : 4 ≤ ((0x40 : Byte) >>> 4).toNat ∧ 4 ≤ ((0xFF : Byte) >>> 4).toNat := by decide

theorem witness_StepRunsDecodedCommand :
    (exPort (.command [0x11])).port = .command [0x11] :: [] ∧ decode [0x11] = .ok .seqNext := ⟨rfl, rfl⟩

theorem witness_StepPerformsNextAction : ex.port = [] ∧ (exPort (.hostPut [0xAA])).port = .hostPut [0xAA] :: [] := ⟨rfl, rfl⟩

theorem ex_inv (port : List HostAction) : BlockInv { ex with port := port } where
  cfgLegal := test_ex_wf
  codeLegal := show (0x00 : Byte) ∈ legalCodes by decide
  errShowsCode := fun _ => rfl
  captureEmpty := fun _ => rfl
  rejectedIsBad := fun h => absurd (show (0x00 : Byte) = 0x01 from h) (by decide)
  framingCstateIsNeither := fun h => absurd (show (0x00 : Byte) = 0x12 from h) (by decide)
  resultAgrees := fun _ h => nomatch (show Reply.nothing = _ from h)

/-- One step of each kind of action, from a state with the invariant. -/
theorem witness_StepKeepsBlockInv :
    ∀ a ∈ [HostAction.command [0x32, 0x55], .command [0x05], .hostPut [0xAA], .hostTake 0, .readReg 2, .reset],
      BlockInv (exPort a) ∧ ∃ t, step (exPort a) = .next t := by
  intro a ha
  refine ⟨ex_inv _, ?_⟩
  simp only [List.mem_cons, List.not_mem_nil, or_false] at ha
  rcases ha with rfl | rfl | rfl | rfl | rfl | rfl <;> exact ⟨_, rfl⟩

theorem witness_ErrIsStickyUntilReset :
    (∃ t, perform (.command [0x11]) { ex with err := true } = .next t) ∧
    (∃ t, perform .reset { ex with err := true } = .next t) ∧
    (∃ t, perform (.command [0x20, 0x00, 0x00, 0x00, 0x00, 0x00]) ex = .next t ∧ t.code ≠ 0x00) ∧
    (∃ t, perform (.command [0x05]) ex = .next t ∧ t.code ≠ 0x00) :=
  ⟨⟨_, rfl⟩, ⟨_, rfl⟩, ⟨_, rfl, by decide⟩, _, rfl, by decide⟩

/-- Each clause has commands on its side. -/
theorem witness_CommandsWriteOnlyTheirParts :
    (∃ u, exec .seqPeek ex = .next u) ∧ writesCnt .seqPeek = false ∧ writesCrcAcc .seqPeek = false ∧
    writesCapture .seqPeek = false ∧ isEncoder .seqPeek = false ∧ readsRx .seqPeek = false := ⟨⟨_, rfl⟩, by decide⟩

theorem witness_CrcAccIsPrivate :
    (readsCrcAcc .crcClear = false ∧ writesCrcAcc .crcClear = true ∧ ∃ u, exec .crcClear ex = .next u) ∧
    (readsCrcAcc (.crcCompute [0x31]) = false ∧ writesCrcAcc (.crcCompute [0x31]) = false ∧
      ∃ u, exec (.crcCompute [0x31]) ex = .next u) := ⟨⟨rfl, rfl, _, rfl⟩, rfl, rfl, _, rfl⟩

theorem witness_CounterIsNeverReadByOthers :
    (readsCnt .seqRestart = false ∧ writesCnt .seqRestart = true ∧ ∃ u, exec .seqRestart ex = .next u) ∧
    (readsCnt (.encReq 0x01 0 []) = false ∧ writesCnt (.encReq 0x01 0 []) = false ∧
      ∃ u, exec (.encReq 0x01 0 []) ex = .next u) := ⟨⟨rfl, rfl, _, rfl⟩, rfl, rfl, _, rfl⟩

/-- Each encoder on 0x00 with its frame, an encoder that fails, and a command that is no encoder. -/
theorem witness_TxIsAppendedWholeAndNeverRead :
    (∃ u, exec (.encReq 0x01 0 []) ex = .next u ∧ u.code = 0x00 ∧ emittedFrame (.encReq 0x01 0 []) ex = frame1) ∧
    (∃ u, exec (.encReqNext 0x01 []) ex = .next u ∧ u.code = 0x00 ∧ emittedFrame (.encReqNext 0x01 []) ex = frame1) ∧
    (∃ u, exec (.encRspData 0x05 (zeros 7) 0xAA) ex = .next u ∧ u.code = 0x00) ∧
    (∃ u, exec (.encRspStatus 0xAA) ex = .next u ∧ u.code = 0x00) ∧
    (∃ u, exec (.encReq 0x00 0 []) ex = .next u ∧ u.code ≠ 0x00) ∧
    (∃ u, exec .seqNext ex = .next u ∧ isEncoder .seqNext = false) :=
  ⟨⟨_, rfl, rfl, by decide⟩, ⟨_, rfl, rfl, by decide⟩, ⟨_, rfl, rfl⟩, ⟨_, rfl, rfl⟩, ⟨_, rfl, by decide⟩, _, rfl, rfl⟩

theorem witness_ErrorsArePrecise :
    (∃ u, exec (.decReq 0) (exRx [0x01]) = .next u ∧ u.code ≠ 0x00) ∧
    (∃ u, exec (.encReqNext 0x00 []) ex = .next u ∧ u.code ≠ 0x00 ∧ readsRx (.encReqNext 0x00 []) = false ∧
      writesCapture (.encReqNext 0x00 []) = false) := ⟨⟨_, rfl, by decide⟩, _, rfl, by decide, rfl, rfl⟩

/-- Each clause of readReg, by its register number. -/
theorem witness_ReadRegReturnsRegisterFields :
    ∀ n ∈ [0, 1, 2, 3, 0xFFFFFFFF], ∃ u, perform (.readReg n) ex = .next u := fun _ _ => ⟨_, rfl⟩

theorem witness_HostStreamActions :
    ({ ex with tx := [0x01, 0x02] } : State).tx = [0x01] ++ [0x02] ∧
    ({ ex with tx := [0x01, 0x02] } : State).tx = [0x01, 0x02] ++ [] := ⟨rfl, rfl⟩

theorem witness_HostTakeBeyondTxStops : ex.tx.length < 1 := by decide

/-- Both ways to be right after a reset: the start, and a reset action. -/
theorem witness_ResetSetsEveryField :
    (State.reset = State.reset) ∧
    ∃ s, perform .reset { ex with seqCnt := 7, err := true } = .next s := ⟨rfl, _, rfl⟩

/-- A legal configuration, and an illegal one for the other side of the equivalence. -/
theorem witness_LegalConfigurationNamesKinds :
    Cfg.ex.wf = true ∧ { Cfg.ex with multiformBit := 0 }.wf = false := by decide

/-- Each clause of a launch. -/
theorem witness_LaunchRefusesIllegalStart :
    1 < 2 ∧ ¬ 1 < 1 ∧ Cfg.ex.wf = true ∧ { Cfg.ex with teeBit := 0 }.wf = false := by decide

def chip0 : ChipInfo := ⟨false, false, false, 0x00010203, 0x12345678⟩

/-- A session under EX that has negotiated chip0 and reached a state. -/
def session (p : Phase) (arrivals : List Arrival) : Session :=
  { openSession arrivals ex with chip := some chip0, negotiation := .reached p }

def acked (k : Nat) : List Arrival := List.replicate k (.bytes [0xAA])

/-- A 3-block transfer under EXH (D41): its hypotheses; every reply OK; k at both ends of its range, with every kind of
failing arrival. -/
theorem witness_FailedReplyStopsTransfer :
    (∀ (kind : Region) (arrivals : List Arrival), let x := session kind.phase arrivals
      x.state.cfg.wf = true ∧ x.state.tx = [] ∧ x.state.rx = [] ∧ x.chip = some chip0 ∧
        x.negotiation = .reached kind.phase) ∧
    2500 ≤ (zeros 2500).length ∧ (HostCfg.exh.headPayload 2500 0 chip0).length ≤ 1024 ∧
    HostCfg.exh.tailPayload.length ≤ 1024 ∧
    (session .boot (acked 5 ++ [])).arrivals = List.replicate (numBlocks 2500 + 2) (.bytes [0xAA]) ++ [] ∧
    (∀ a, (session .boot (acked 0 ++ a :: [])).arrivals = List.replicate 0 (.bytes [0xAA]) ++ a :: [] ∧ 0 < numBlocks 2500 + 2) ∧
    (∀ a, (session .boot (acked 4 ++ a :: [])).arrivals = List.replicate 4 (.bytes [0xAA]) ++ a :: [] ∧ 4 < numBlocks 2500 + 2) ∧
    ackFailure .ioFailure = some .transportError ∧ ackFailure (.bytes []) = some .timeout ∧
    ackFailure (.bytes [0x55]) = some .rejectedByTarget ∧ ackFailure (.bytes [0x00]) = some .framingError ∧
    ackFailure (.bytes [0xAA, 0xAA]) = some .framingError ∧ ackFailure .abandoned = some .abandoned ∧
    ackFailure (.abandonedInFlight [0xAA]) = some .abandoned :=
  ⟨fun _ _ => ⟨test_ex_wf, rfl, rfl, rfl, rfl⟩, (zeros_length 2500).ge, by decide, by decide, rfl,
    fun _ => ⟨rfl, by decide⟩, fun _ => ⟨rfl, by decide⟩, by decide⟩

/-- The payload of V-DEC-49 for a ca chip; and, for a host that takes no chip for version 1, that of V-DEC-48. -/
theorem witness_UnsupportedChipFailsAfterQuery :
    ex.cfg.wf = true ∧ HostCfg.exh.queryPayload.length ≤ 1024 ∧
    (let p : List Byte := [0x01, 0x00, 0x00, 0x00, 0x01, 0x02, 0x03, 0x12, 0x34, 0x56, 0x78]
     p.length = 11 ∧ (byteAt p 0).getLsbD ex.cfg.caBit = true) ∧
    (queryPayload.length = 11 ∧ (byteAt queryPayload 0).getLsbD ex.cfg.caBit = false ∧
      ({ HostCfg.exh with fastbootV1 := fun _ => false } : HostCfg).fastbootV1 chip0 = false) := by decide

/-! Calls of a session (R226, R227). -/

/-- R215: a zero-length transfer sends a HEAD and a TAIL. -/
theorem test_sendRegion_zero_length :
    ((session .boot (acked 2)).sendRegion .exh .boot 0 0 []).2 = .ok () ∧
    ((session .boot (acked 2)).sendRegion .exh .boot 0 0 []).1.sent.length = 2 := ⟨rfl, rfl⟩

/-- R227: the second of two blocks is rejected; the error says where. -/
theorem test_sendRegion_rejected :
    ((session .auxcode (acked 2 ++ [.bytes [0x55]])).sendRegion .exh .auxcode 0x100 2048 (zeros 2048)).2 =
      .error { kind := .rejectedByTarget, phase := .auxcode, region := some .auxcode, byteOffset := 1024 } := rfl

/-- R228: no reply to QUERY. -/
theorem test_queryChip_timeout :
    ((openSession [] ex).queryChip .exh).2 =
      .error { kind := .timeout, phase := .query, region := none, byteOffset := 0 } := rfl

/-- R221: the Chip Info of V-DEC-48's payload. -/
theorem test_queryChip_ok :
    ((openSession [.bytes (queryReply ++ [0xAA])] ex).queryChip .exh).2 = .ok chip0 := rfl

/-- R229: abandoned after the HEAD round, so that no DATA frame is sent. -/
theorem test_sendRegion_abandoned :
    ((session .boot (acked 1 ++ [.abandoned])).sendRegion .exh .boot 0 2048 (zeros 2048)).1.sent.length = 1 ∧
    ((session .boot (acked 1 ++ [.abandoned])).sendRegion .exh .boot 0 2048 (zeros 2048)).2 =
      .error { kind := .abandoned, phase := .boot, region := some .boot, byteOffset := 0 } := ⟨rfl, rfl⟩

/-- R229, R279: a round abandoned in flight leaves its reply in RX, and the reset of the next session empties it. -/
theorem test_abandoned_in_flight :
    ((openSession [.abandonedInFlight [0x81]] ex).queryChip .exh).1.state.rx = [0x81] ∧
    (openSession [] ((openSession [.abandonedInFlight [0x81]] ex).queryChip .exh).1.state).state.rx = [] := ⟨rfl, rfl⟩

/-- R220: no transfer before Query (log 22). -/
theorem test_sendRegion_before_query :
    ((openSession [] ex).sendRegion .exh .boot 0 0 []).2 =
      .error { kind := .hostUsage, phase := .query, region := some .boot, byteOffset := 0 } ∧
    ((openSession [] ex).sendRegion .exh .boot 0 0 []).1.sent = [] := ⟨rfl, rfl⟩

/-- R220, R225: Boot moves to Done, and Done is terminal. -/
theorem test_done_is_terminal :
    ((session .boot (acked 2)).sendRegion .exh .boot 0 0 []).1.negotiation = .reached .done ∧
    ((session .done (acked 2)).runFullSequence .exh ⟨[], [], fun _ => 0, [], fun _ _ => 0, []⟩).1.negotiation =
      .reached .done ∧
    ((session .done (acked 2)).runFullSequence .exh ⟨[], [], fun _ => 0, [], fun _ _ => 0, []⟩).1.sent = [] :=
  ⟨rfl, rfl, rfl⟩

/-- From reset, the replies a download of empty regions gets: QUERY, four OK, BOARD (V-ENC-24), four OK. -/
def emptyDownload : Session × CallResult :=
  (openSession (.bytes (queryReply ++ [0xAA]) :: acked 4 ++
    .bytes [0x85, 0x00, 0x00, 0x00, 0x00, 0x00, 0x10, 0x00, 0xB6, 0x4C, 0xAA] :: acked 4) ex).runFullSequence .exh
    ⟨[], [], fun _ => 0, [], fun _ _ => 0, []⟩

/-- R215, R220: from Query to Done in a QUERY, a BOARD, four HEAD and four TAIL frames. -/
theorem test_runFullSequence :
    emptyDownload.1.negotiation = .reached .done ∧ emptyDownload.1.sent.length = 10 := ⟨rfl, rfl⟩

end Sys2Proof.Tests
end

section
/-! How a command completes, whatever it is: it writes at most its own parts of the state and then finishes (R243). From
this, ERR is sticky (R30). Then the bits of STATUS, as the register read port packs them (R31). -/

namespace Sys2Proof.Machine

/-! Completion of a command (R243). -/

/-- u is s after a command that wrote at most the parts ps and finished (R243). -/
def CompletedWithin (ps : List Part) (s u : State) : Prop :=
  ∃ x out s', u = finish x out s' ∧ s'.err = s.err ∧ FrameBut ps s s'

/-- The parts of the state a command may write before it finishes (R21, R23, R28, R29, R52, R53). -/
def writtenParts : Instr → List Part
  | .crcClear => [.crcAcc]
  | .crcUpdate _ => [.crcAcc]
  | .seqRestart => [.seqCnt]
  | .seqNext => [.seqCnt]
  | .encReq _ _ _ => [.tx]
  | .encReqNext _ _ => [.seqCnt, .tx]
  | .encRspData _ _ _ => [.tx]
  | .encRspStatus _ => [.tx]
  | .decRsp _ => [.rx, .capture]
  | .decReq _ => [.rx]
  | .csClassify _ => [.capture]
  | _ => []

theorem CompletedWithin.of_frameBut {ps : List Part} {s s' : State} (x : Status) (out : Outputs)
    (hf : FrameBut ps s s') (he : s'.err = s.err) : CompletedWithin ps s (finish x out s') :=
  ⟨x, out, s', rfl, he, hf⟩

/-- A command that only finishes is within every list of parts. -/
theorem CompletedWithin.finish_self (ps : List Part) (x : Status) (out : Outputs) (s : State) :
    CompletedWithin ps s (finish x out s) :=
  .of_frameBut x out (frameBut_refl ps s) rfl

/-- A completed command has finished with the code it left in STATUS (R243, R32). -/
theorem CompletedWithin.finished {ps : List Part} {s u : State} (h : CompletedWithin ps s u) :
    ∃ out, Finished s u u.code out := by
  obtain ⟨x, out, s', rfl, he, _⟩ := h
  exact ⟨out, finish_finished x out s s' he⟩

/-- What a command wrote is what its completion changed, besides CODE, ERR and the result record. -/
theorem CompletedWithin.frameBut {ps : List Part} {s u : State} (h : CompletedWithin ps s u) : FrameBut ps s u := by
  obtain ⟨x, out, s', rfl, _, hf⟩ := h
  exact frameBut_finish ps x out s s' hf

/-! Completion of the commands with checks. -/

theorem execEncReq_completes (t : Byte) (sq : Half) (p : List Byte) (s : State) :
    ∃ u, execEncReq t sq p s = .next u ∧ CompletedWithin [.tx] s u := by
  by_cases h : reqCheck s.cfg t p = .ok
  · exact ⟨_, execEncReq_ok h, .of_frameBut _ _ (frameBut_emit _ s) rfl⟩
  · exact ⟨_, execEncReq_err _ rfl h, .finish_self _ _ _ s⟩

theorem execEncReqNext_completes (t : Byte) (p : List Byte) (s : State) :
    ∃ u, execEncReqNext t p s = .next u ∧ CompletedWithin [.seqCnt, .tx] s u := by
  by_cases h : reqCheck s.cfg t p = .ok
  · exact ⟨_, execEncReqNext_ok h,
      .of_frameBut _ _ (frameBut_trans (frameBut_setCnt _ s) (frameBut_emit _ _)) rfl⟩
  · exact ⟨_, execEncReqNext_err _ rfl h, .finish_self _ _ _ s⟩

theorem execEncRspData_completes (t : Byte) (p : List Byte) (cs : Byte) (s : State) :
    ∃ u, execEncRspData t p cs s = .next u ∧ CompletedWithin [.tx] s u := by
  by_cases h : rspCheck s.cfg t p = .ok
  · exact ⟨_, execEncRspData_ok h, .of_frameBut _ _ (frameBut_emit _ s) rfl⟩
  · exact ⟨_, execEncRspData_err _ rfl h, .finish_self _ _ _ s⟩

theorem frameBut_drain_captureNone (s : State) : FrameBut [.rx, .capture] s (captureNone (drain s)) :=
  frameBut_trans (frameBut_drain s) (frameBut_captureNone _)

theorem frameBut_dropRx_captureState (n : Nat) (b : Byte) (s : State) :
    FrameBut [.rx, .capture] s (captureState b (dropRx n s)) :=
  frameBut_trans (frameBut_dropRx n s) (frameBut_captureState b _)

theorem decRspStatusOnly_completes (s : State) : CompletedWithin [.rx, .capture] s (decRspStatusOnly s) := by
  unfold decRspStatusOnly
  split
  · exact .of_frameBut _ _ (frameBut_drain_captureNone s) rfl
  · exact .of_frameBut _ _ (frameBut_dropRx_captureState 1 _ s) rfl

theorem execDecRsp_completes (t : Byte) (s : State) :
    ∃ u, execDecRsp t s = .next u ∧ CompletedWithin [.rx, .capture] s u := by
  rcases execDecRsp_cases t s with ⟨_, h⟩ | ⟨_, _, _, h⟩ | ⟨_, _, _, _, _, h⟩ | ⟨_, _, _, _, _, h⟩
  · exact ⟨_, h, .of_frameBut _ _ (frameBut_mono (frameBut_captureNone s) (by simp)) rfl⟩
  · exact ⟨_, h, decRspStatusOnly_completes s⟩
  · exact ⟨_, h, .of_frameBut _ _ (frameBut_drain_captureNone s) rfl⟩
  · exact ⟨_, h, .of_frameBut _ _ (frameBut_dropRx_captureState _ _ s) rfl⟩

theorem execDecReq_completes (n : Half) (s : State) :
    ∃ u, execDecReq n s = .next u ∧ CompletedWithin [.rx] s u := by
  rcases execDecReq_cases n s with ⟨_, h⟩ | ⟨_, _, h⟩ | ⟨_, _, h⟩
  · exact ⟨_, h, .finish_self _ _ _ s⟩
  · exact ⟨_, h, .of_frameBut _ _ (frameBut_drain s) rfl⟩
  · exact ⟨_, h, .of_frameBut _ _ (frameBut_dropRx _ s) rfl⟩

/-- A command that only finishes, and whose operands' check decides the code and the outputs. -/
theorem completedWithin_ite {c : Prop} [Decidable c] (x y : Status) (o p : Outputs) (s : State) :
    CompletedWithin [] s (if c then finish x o s else finish y p s) := by
  split <;> exact .finish_self _ _ _ s

/-- Every command completes in every state, and writes only its own parts before it finishes (R243, R248). -/
theorem exec_completes (i : Instr) (s : State) : ∃ u, exec i s = .next u ∧ CompletedWithin (writtenParts i) s u := by
  cases i with
  | crcClear => exact ⟨_, rfl, .of_frameBut _ _ (frameBut_setCrcAcc _ s) rfl⟩
  | crcUpdate b => exact ⟨_, rfl, .of_frameBut _ _ (frameBut_setCrcAcc _ s) rfl⟩
  | crcFinal => exact ⟨_, rfl, .finish_self _ _ _ s⟩
  | crcCompute d => exact ⟨_, rfl, completedWithin_ite _ _ _ _ s⟩
  | crcCheck d v => exact ⟨_, rfl, completedWithin_ite _ _ _ _ s⟩
  | seqRestart => exact ⟨_, rfl, .of_frameBut _ _ (frameBut_setCnt _ s) rfl⟩
  | seqNext => exact ⟨_, rfl, .of_frameBut _ _ (frameBut_setCnt _ s) rfl⟩
  | seqPeek => exact ⟨_, rfl, .finish_self _ _ _ s⟩
  | seqCheck sq c => exact ⟨_, rfl, .finish_self _ _ _ s⟩
  | encReq t sq p => exact execEncReq_completes t sq p s
  | encReqNext t p => exact execEncReqNext_completes t p s
  | encRspData t p cs => exact execEncRspData_completes t p cs s
  | encRspStatus cs => exact ⟨_, rfl, .of_frameBut _ _ (frameBut_emit _ s) rfl⟩
  | decRsp t => exact execDecRsp_completes t s
  | decReq n => exact execDecReq_completes n s
  | csClassify b => exact ⟨_, rfl, .of_frameBut _ _ (frameBut_captureState b s) rfl⟩
  | parseChipInfo p => exact ⟨_, rfl, completedWithin_ite _ _ _ _ s⟩
  | parseBoard p => exact ⟨_, rfl, completedWithin_ite _ _ _ _ s⟩

/-! ERR (R30). -/

/-- Every command message finishes, one that is no command's too (R80, R84, R243). -/
theorem runMessage_finished (msg : List Byte) (s : State) :
    ∃ u out, runMessage msg s = .next u ∧ Finished s u u.code out := by
  unfold runMessage
  split
  next i _ =>
    obtain ⟨u, hu, hc⟩ := exec_completes i s
    obtain ⟨out, hf⟩ := hc.finished
    exact ⟨u, out, hu, hf⟩
  next => exact ⟨_, _, rfl, finish_finished .illegalCommand .absent s s rfl⟩

/-- ERR after a command message: as before, and set by an error code (R30). -/
theorem perform_command_err {msg : List Byte} {s t : State} (h : perform (.command msg) s = .next t) :
    t.err = (s.err || t.code != 0x00) := by
  obtain ⟨u, out, hu, _, herr, _⟩ := runMessage_finished msg s
  cases hu.symm.trans h
  exact herr

/-- A hostTake that answers leaves ERR (R55). -/
theorem hostTake_err {n : Nat} {s t : State} (h : hostTake n s = .next t) : t.err = s.err := by
  unfold hostTake at h
  split at h
  · cases h; rfl
  · cases h

/-- An action that is neither a command nor a reset leaves ERR; a command can only set it (R30, R31, R55). -/
theorem perform_keeps_err {a : HostAction} {s t : State} (h : perform a s = .next t) (hs : s.err = true)
    (ha : a ≠ .reset) : t.err = true := by
  cases a with
  | command msg => rw [perform_command_err h, hs, Bool.true_or]
  | hostPut bs => cases h; exact hs
  | hostTake n => exact (hostTake_err h).trans hs
  | readReg n => cases h; exact hs
  | reset => exact absurd rfl ha

/-! The registers (R31). -/

theorem readRegValue_zero_toNat (s : State) : (readRegValue s 0).toNat = s.seqCnt.toNat := by
  simp only [readRegValue, seqWord, BitVec.toNat_setWidth]
  omega

theorem readRegValue_one_toNat (s : State) : (readRegValue s 1).toNat = s.crcAcc.toNat := by
  simp only [readRegValue, BitVec.toNat_setWidth]
  omega

/-- Only n = 0, 1 and 2 name a register (R31). -/
theorem readRegValue_of_unused {n : Nat} (h0 : n ≠ 0) (h1 : n ≠ 1) (h2 : n ≠ 2) (s : State) : readRegValue s n = 0 := by
  match n with
  | 0 | 1 | 2 => contradiction
  | n + 3 => rfl

theorem bitWord_getLsbD (b : Bool) (i : Nat) : (bitWord b).getLsbD i = (decide (i = 0) && b) := by
  cases b <;> simp [bitWord]

/-- STATUS bit by bit: CODE, CSTATE, CSTATE_VALID, ERR, and zeros above (R26). -/
theorem statusWord_getLsbD (s : State) (i : Nat) :
    (statusWord s).getLsbD i =
      if i < 8 then s.code.getLsbD i
      else if i < 16 then s.cstate.getLsbD (i - 8)
      else if i = 16 then s.csValid
      else decide (i = 17) && s.err := by
  have hcode (h : 8 ≤ i) : s.code.getLsbD i = false := BitVec.getLsbD_of_ge _ _ h
  have hcstate (h : 16 ≤ i) : s.cstate.getLsbD (i - 8) = false := BitVec.getLsbD_of_ge _ _ (by omega)
  simp only [statusWord, BitVec.getLsbD_or, BitVec.getLsbD_shiftLeft, BitVec.getLsbD_setWidth, bitWord_getLsbD]
  split_ifs with h8 h16 he
  · have : i < 32 ∧ i < 16 ∧ i < 17 := by omega
    simp [h8, this]
  · have : i < 32 ∧ i - 8 < 32 ∧ i < 17 := by omega
    simp [h8, h16, this, hcode (by omega)]
  · subst he
    simp
  · by_cases he' : i = 17
    · subst he'
      simp
    · have : ¬ i - 16 = 0 ∧ ¬ i - 17 = 0 := by omega
      simp [hcode (by omega), hcstate (by omega), he', this]

/-- STATUS by its fields, the unused bits zero (R26). -/
theorem statusWord_fields (s : State) :
    (statusWord s).extractLsb' 0 8 = s.code ∧ (statusWord s).extractLsb' 8 8 = s.cstate ∧
      (statusWord s).getLsbD 16 = s.csValid ∧ (statusWord s).getLsbD 17 = s.err ∧
      (statusWord s).extractLsb' 18 14 = 0 := by
  refine ⟨?_, ?_, statusWord_getLsbD s 16, statusWord_getLsbD s 17, ?_⟩
  all_goals
    apply BitVec.eq_of_getLsbD_eq
    intro i hi
    rw [BitVec.getLsbD_extractLsb', statusWord_getLsbD]
  · simp [hi]
  · have : 8 + i < 16 := by omega
    simp [hi, this]
  · have : ¬ 18 + i < 8 ∧ ¬ 18 + i < 16 ∧ ¬ 18 + i = 16 ∧ ¬ 18 + i = 17 := by omega
    simp [this]

end Sys2Proof.Machine

namespace Sys2Proof.Proofs

open Sys2Proof Sys2Proof.Machine

/-- Settles O45, from how every host action leaves ERR. -/
theorem errIsStickyUntilReset : Obligations.ErrIsStickyUntilReset := by
  refine ⟨fun a s t h hs => ?_, fun msg s t h hc => ?_⟩
  · by_cases ha : a = .reset
    · exact .inr ha
    · exact .inl (perform_keeps_err h hs ha)
  · rw [perform_command_err h, bne_iff_ne.mpr hc, Bool.or_true]

/-- Settles O51, register by register. -/
theorem readRegReturnsRegisterFields : Obligations.ReadRegReturnsRegisterFields := by
  intro s n
  refine ⟨readRegValue s n, rfl, ?_⟩
  split_ifs with h0 h1 h2
  · subst h0; exact readRegValue_zero_toNat s
  · subst h1; exact readRegValue_one_toNat s
  · subst h2; exact statusWord_fields s
  · exact readRegValue_of_unused h0 h1 h2 s

end Sys2Proof.Proofs
end

section
/-! The host's stream actions (R55): what a take does to a TX that is split where the take ends. -/

namespace Sys2Proof.Machine

/-- A take of exactly the front part of TX returns that part and leaves the rest (R55). -/
theorem hostTake_of_tx_eq_append {s : State} {f g : List Byte} (h : s.tx = f ++ g) :
    hostTake f.length s = .next { s with tx := g, reply := .taken f } := by
  have hle : f.length ≤ s.tx.length := by simp [h]
  rw [hostTake_of_le hle, h, List.take_left, List.drop_left]

end Sys2Proof.Machine

namespace Sys2Proof.Proofs

open Sys2Proof Sys2Proof.Machine

/-- Settles O52: a put appends by definition, and a take splits TX where it ends. -/
theorem hostStreamActions : Obligations.HostStreamActions := by
  refine ⟨fun s bs => ?put, fun s f g htx => ?take⟩
  case put => rfl
  case take => exact hostTake_of_tx_eq_append htx

end Sys2Proof.Proofs
end

section
/-! The encoding family: where each field of a request frame stands (R90), and which messages the command port takes for
a command (R80 to R84). -/

namespace Sys2Proof.Machine

/-! The fields of a request frame, by offset (R90). -/

/-- The bytes of a request frame that its checksum covers (R90, R129). -/
def reqBody (c : Cfg) (t : Byte) (sq : Half) (p : List Byte) : List Byte :=
  [t] ++ ser16 sq c.seqOrder ++ ser16 (~~~sq) c.seqOrder ++ p

@[simp] theorem reqBody_length (c : Cfg) (t : Byte) (sq : Half) (p : List Byte) :
    (reqBody c t sq p).length = 5 + p.length := by
  simp [reqBody]; omega

section
variable (c : Cfg) (t : Byte) (sq : Half) (p : List Byte)

/-- A request frame is its covered bytes and their checksum. -/
theorem reqFrame_eq_reqBody_append :
    reqFrame c t sq p = reqBody c t sq p ++ ser16 (crc16 c (reqBody c t sq p)) c.crcOrder := by
  simp only [reqFrame, reqBody, cmp16_eq_not]

theorem byteAt_reqFrame_zero : byteAt (reqFrame c t sq p) 0 = t := rfl

theorem slice_reqFrame_seq : slice (reqFrame c t sq p) 1 2 = ser16 sq c.seqOrder := by
  rw [reqFrame_eq_reqBody_append, slice_append_left _ _ _ _ (by simp; omega), reqBody, List.append_assoc]
  exact slice_middle [t] _ _ 1 2 rfl (by simp)

theorem slice_reqFrame_complement : slice (reqFrame c t sq p) 3 4 = ser16 (~~~sq) c.seqOrder := by
  rw [reqFrame_eq_reqBody_append, slice_append_left _ _ _ _ (by simp; omega), reqBody]
  exact slice_middle ([t] ++ ser16 sq c.seqOrder) _ p 3 4 (by simp) (by simp)

theorem slice_reqFrame_payload : slice (reqFrame c t sq p) 5 (4 + p.length) = p := by
  rw [reqFrame_eq_reqBody_append]
  exact slice_middle ([t] ++ ser16 sq c.seqOrder ++ ser16 (~~~sq) c.seqOrder) p _ _ _ (by simp) (by simp; omega)

/-- Bytes 0 to 4 + n are the ones the checksum covers. -/
theorem slice_reqFrame_covered : slice (reqFrame c t sq p) 0 (4 + p.length) = reqBody c t sq p := by
  rw [reqFrame_eq_reqBody_append]
  exact slice_middle [] _ _ _ _ rfl (by simp; omega)

theorem slice_reqFrame_checksum :
    slice (reqFrame c t sq p) (5 + p.length) (6 + p.length) = ser16 (crc16 c (reqBody c t sq p)) c.crcOrder := by
  rw [reqFrame_eq_reqBody_append]
  simpa using slice_middle (reqBody c t sq p) (ser16 (crc16 c (reqBody c t sq p)) c.crcOrder) []
    (5 + p.length) (6 + p.length) (by simp) (by simp; omega)

end

end Sys2Proof.Machine

namespace Sys2Proof

/-! Which messages decode (R80 to R84). -/

/-- A decoded message is the message of its command, which is well-formed (R80, R84, R85). -/
theorem encode_of_decode_eq_ok {msg : List Byte} {i : Instr} (h : decode msg = .ok i) :
    i.wf = true ∧ encode i = msg := by
  unfold decode at h
  split at h
  case h_1 => cases h
  case h_2 c operands =>
    split at h
    case h_1 => cases h
    case h_2 r hrow =>
      split at h
      case h_1 => cases h
      case h_2 os rest htake =>
        split at h
        case h_1 => cases h
        case h_2 j hbuild =>
          split at h
          case isFalse => cases h
          case isTrue hrest =>
            cases h
            obtain ⟨hr, hcode⟩ := rowOf_eq_some hrow
            obtain ⟨hops, hicode⟩ := MapRow.build_eq hr hbuild
            obtain ⟨hbytes, hwf, _⟩ := takeOperands_eq_some htake
            rw [List.isEmpty_iff.mp hrest, List.append_nil] at hbytes
            exact ⟨by rw [Instr.wf, hops, hwf], by rw [encode, hicode, hcode, hops, hbytes]⟩

/-- A code byte of no row is reserved, whatever follows it (R84). -/
theorem decode_of_rowOf_eq_none {c : Byte} (h : rowOf c = none) (rest : List Byte) :
    decode (c :: rest) = .error (.reservedCode c) := by
  simp only [decode, h]

theorem crcRows_unit : ∀ r ∈ crcRows, r.code >>> 4 = 0 := by decide
theorem seqRows_unit : ∀ r ∈ seqRows, r.code >>> 4 = 1 := by decide
theorem encRows_unit : ∀ r ∈ encRows, r.code >>> 4 = 2 := by decide
theorem decRows_unit : ∀ r ∈ decRows, r.code >>> 4 = 3 := by decide

/-- Every row of the command map belongs to one of the units 0 to 3 (R81). -/
theorem commandMap_unit_lt {r : MapRow} (hr : r ∈ commandMap) : (r.code >>> 4).toNat < 4 := by
  simp only [commandMap, List.mem_append] at hr
  rcases hr with ((hcrc | hseq) | henc) | hdec
  · rw [crcRows_unit r hcrc]; decide
  · rw [seqRows_unit r hseq]; decide
  · rw [encRows_unit r henc]; decide
  · rw [decRows_unit r hdec]; decide

/-- No row has a code in a reserved unit (R81). -/
theorem rowOf_of_reservedUnit {c : Byte} (h : 4 ≤ (c >>> 4).toNat) : rowOf c = none := by
  rw [Option.eq_none_iff_forall_ne_some]
  intro r hrow
  obtain ⟨hr, rfl⟩ := rowOf_eq_some hrow
  exact absurd (commandMap_unit_lt hr) (Nat.not_lt.mpr h)

end Sys2Proof

namespace Sys2Proof.Machine

/-- A message that is no well-formed command's is answered by the illegal-command finish (R84). -/
theorem runMessage_of_no_command {msg : List Byte} (h : ∀ i : Instr, i.wf = true → encode i ≠ msg) (s : State) :
    runMessage msg s = .next (illegalCommand s) := by
  unfold runMessage
  split
  case h_1 i hi =>
    obtain ⟨hwf, henc⟩ := encode_of_decode_eq_ok hi
    exact absurd henc (h i hwf)
  case h_2 => rfl

end Sys2Proof.Machine

namespace Sys2Proof.Proofs

open Sys2Proof Sys2Proof.Machine

/-- Settles O21, field by field. -/
theorem requestFrameLayout : Obligations.RequestFrameLayout := by
  intro c k sq p f n
  refine ⟨?length, ?type, ?seq, ?complement, ?payload, ?checksum⟩
  case length => exact reqFrame_length ..
  case type => exact byteAt_reqFrame_zero ..
  case seq => exact slice_reqFrame_seq ..
  case complement => exact slice_reqFrame_complement ..
  case payload => exact slice_reqFrame_payload ..
  case checksum =>
    have hcovered : slice f 0 (4 + n) = reqBody c (c.typeCode k) sq p := slice_reqFrame_covered ..
    rw [hcovered]
    exact slice_reqFrame_checksum ..

/-- Settles O37: such a message does not decode, and the finish with 0x40 writes nothing else. -/
theorem malformedMessageChangesOnlyStatus : Obligations.MalformedMessageChangesOnlyStatus := by
  intro s msg h
  refine ⟨illegalCommand s, runMessage_of_no_command h s, ?finished, ?frame⟩
  case finished => exact finish_finished .illegalCommand .absent s s rfl
  case frame => exact frameBut_finish [] .illegalCommand .absent s s (frameBut_refl [] s)

/-- Settles O38: every row's unit is 0 to 3, so that a code with a higher one has no row. -/
theorem unitsOfCommandCodes : Obligations.UnitsOfCommandCodes :=
  ⟨fun _ rest h => decode_of_rowOf_eq_none (rowOf_of_reservedUnit h) rest,
    crcRows_unit, seqRows_unit, encRows_unit, decRows_unit⟩

end Sys2Proof.Proofs
end

section
/-! The CRC family: the engine bit by bit (R120), and how its commands that only finish do so (R122, R124 to R126). -/

namespace Sys2Proof.Machine

/-! The engine (R120). -/

/-- Mirroring a word exchanges bit i and bit w - 1 - i. -/
theorem reverse_getLsbD_of_lt {w i : Nat} (x : BitVec w) (h : i < w) : x.reverse.getLsbD i = x.getLsbD (w - 1 - i) := by
  rw [BitVec.getLsbD_reverse, BitVec.getMsbD_eq_getLsbD, decide_eq_true h, Bool.true_and]

/-- One shift of R120, with the tested bit named as the register's top bit. -/
theorem crcShift_eq_msb (c : Cfg) (v : Half) :
    crcShift c v = if v.msb then (v <<< 1) ^^^ c.crcPoly else v <<< 1 := by
  rw [crcShift, BitVec.msb_eq_getLsbD_last]

/-- The loop of R120 iterates one shift. -/
theorem crcShifts_eq_iterate (c : Cfg) (n : Nat) (v : Half) : crcShifts c n v = (crcShift c)^[n] v := by
  induction n generalizing v with
  | zero => rfl
  | succ n ih => rw [crcShifts, ih, Function.iterate_succ_apply]

/-! The commands that check a string's length (R125, R126). -/

/-- The message of CRC_COMPUTE (R82, R125). -/
theorem encode_crcCompute (d : List Byte) :
    encode (.crcCompute d) = 0x03 :: (ser16 (BitVec.ofNat 16 d.length) .le ++ d) := by
  simp [encode, Instr.code, Instr.operands, Operand.bytes]

/-- The message of CRC_CHECK (R82, R126). -/
theorem encode_crcCheck (d : List Byte) (v : Half) :
    encode (.crcCheck d v) = 0x04 :: (ser16 (BitVec.ofNat 16 d.length) .le ++ d ++ ser16 v .le) := by
  simp [encode, Instr.code, Instr.operands, Operand.bytes]

/-- A command that only finishes, with 0x42 when its string is longer than a CRC command accepts (R125, R126). -/
theorem exec_finishes_of_lengthCheck {i : Instr} {s : State} {n : Nat} {x : Status} {out : Outputs}
    (h : exec i s =
      .next (if n > Config.crcStringMax then finish .illegalLength .absent s else finish x out s)) :
    ∃ t, exec i s = .next t ∧ FrameBut [] s t ∧
      if n > 1031 then Finished s t 0x42 .absent else Finished s t x.byte out := by
  rw [Config.crcStringMax] at h
  refine ⟨_, h, (completedWithin_ite _ _ _ _ s).frameBut, ?finished⟩
  split_ifs
  · exact finish_finished .illegalLength .absent s s rfl
  · exact finish_finished x out s s rfl

end Sys2Proof.Machine

namespace Sys2Proof.Proofs

open Sys2Proof Sys2Proof.Machine

/-- Settles O1: the reflections are bit reversals, and the engine's loop iterates its shift. -/
theorem crcEngineShiftsMsbFirst : Obligations.CrcEngineShiftsMsbFirst := by
  refine ⟨fun b _ h => ?reflect8, fun v _ h => ?reflect16, fun c v b => ?step, fun _ _ => ?final⟩
  case reflect8 => exact reverse_getLsbD_of_lt b h
  case reflect16 => exact reverse_getLsbD_of_lt v h
  case step => rw [crcStep, crcShifts_eq_iterate, crcInput, funext (crcShift_eq_msb c)]
  case final => rfl

/-- Settles O2: CRC_CLEAR writes CRC_ACC and finishes. -/
theorem crcClearLoadsInit : Obligations.CrcClearLoadsInit := by
  refine ⟨rfl, fun s => ⟨finish .ok .absent (setCrcAcc s.cfg.crcInit s), rfl, ?finished, ?acc, ?frame⟩⟩
  case finished => exact finish_finished .ok .absent s _ (setCrcAcc_err _ s)
  case acc => rw [finish_crcAcc, setCrcAcc_crcAcc]
  case frame => exact frameBut_finish _ .ok .absent s _ (frameBut_setCrcAcc _ s)

/-- Settles O5: CRC_FINAL finishes and writes nothing before it. -/
theorem crcFinalOutputsFinishedChecksum : Obligations.CrcFinalOutputsFinishedChecksum := by
  refine ⟨rfl, fun s => ⟨finish .ok (.checksum (crcFinal s.cfg s.crcAcc)) s, rfl, ?finished, ?frame⟩⟩
  case finished => exact finish_finished .ok _ s s rfl
  case frame => exact frameBut_finish [] .ok _ s s (frameBut_refl [] s)

/-- Settles O6, from the length check of R125. -/
theorem crcComputeOutputsChecksum : Obligations.CrcComputeOutputsChecksum :=
  fun d => ⟨encode_crcCompute d, fun _ => exec_finishes_of_lengthCheck (x := .ok) rfl⟩

/-- Settles O7, from the length check of R126; past it the comparison picks the code. -/
theorem crcCheckComparesChecksum : Obligations.CrcCheckComparesChecksum := by
  intro d v
  refine ⟨encode_crcCheck d v, fun s => ?_⟩
  have hcode : (if crc16 s.cfg d = v then Status.ok else .checksumMismatch).byte =
      if crc16 s.cfg d = v then 0x00 else 0x20 := apply_ite Status.byte _ _ _
  rw [← hcode]
  exact exec_finishes_of_lengthCheck rfl

end Sys2Proof.Proofs
end

section
/-! The sequence family: what the commands of UNIT 0x1 write and output (R141 to R146), with the complement written as the
bitwise one. -/

namespace Sys2Proof.Machine

/-- The outputs of SEQ_NEXT and SEQ_PEEK for a counter value (R140). -/
def counterOutputs (cnt : Byte) : Outputs :=
  .seqPair (cnt.setWidth 16) (~~~(cnt.setWidth 16))

/-- The pair the commands compute is the one R140 describes. -/
theorem seqPair_seq16 (cnt : Byte) : .seqPair (seq16 cnt) (cmp16 (seq16 cnt)) = counterOutputs cnt := by
  rw [counterOutputs, cmp16_eq_not, seq16]

/-- SEQ_NEXT outputs the value it takes, and advances the counter (R143). -/
theorem exec_seqNext (s : State) :
    exec .seqNext s = .next (finish .ok (counterOutputs s.seqCnt) (setCnt (inc8 s.seqCnt) s)) := by
  rw [← seqPair_seq16]; rfl

/-- SEQ_PEEK only finishes, with the value it reads (R145). -/
theorem exec_seqPeek (s : State) : exec .seqPeek s = .next (finish .ok (counterOutputs s.seqCnt) s) := by
  rw [← seqPair_seq16]; rfl

/-- SEQ_CHECK only finishes, with the code the comparison picks (R146). -/
theorem exec_seqCheck (sq c : Half) (s : State) :
    exec (.seqCheck sq c) s = .next (finish (if c = ~~~sq then .ok else .complementMismatch) .absent s) := by
  rw [← cmp16_eq_not]; rfl

/-- The message of SEQ_CHECK (R82, R146). -/
theorem encode_seqCheck (sq c : Half) : encode (.seqCheck sq c) = 0x13 :: (ser16 sq .le ++ ser16 c .le) := by
  simp [encode, Instr.code, Instr.operands, Operand.bytes]

end Sys2Proof.Machine

namespace Sys2Proof.Proofs

open Sys2Proof Sys2Proof.Machine

/-- Settles O10: SEQ_RESTART writes CNT and finishes. -/
theorem seqRestartLoadsSeqInit : Obligations.SeqRestartLoadsSeqInit := by
  refine ⟨rfl, fun s => ⟨finish .ok .absent (setCnt Config.seqInit s), rfl, ?finished, ?cnt, ?frame⟩⟩
  case finished => exact finish_finished .ok .absent s _ (setCnt_err _ s)
  case cnt => rw [finish_seqCnt, setCnt_seqCnt, Config.seqInit]
  case frame => exact frameBut_finish _ .ok .absent s _ (frameBut_setCnt _ s)

/-- Settles O11: the outputs are of CNT before the increment, which wraps at 256. -/
theorem seqNextOutputsThenIncrements : Obligations.SeqNextOutputsThenIncrements := by
  refine ⟨rfl, fun s => ⟨_, exec_seqNext s, ?finished, ?cnt, ?frame⟩⟩
  case finished => exact finish_finished .ok (counterOutputs s.seqCnt) s _ (setCnt_err _ s)
  case cnt => rw [finish_seqCnt, setCnt_seqCnt, inc8_toNat]
  case frame => exact frameBut_finish _ .ok _ s _ (frameBut_setCnt _ s)

/-- Settles O12: SEQ_PEEK writes nothing before it finishes. -/
theorem seqPeekOutputsWithoutTaking : Obligations.SeqPeekOutputsWithoutTaking := by
  refine ⟨rfl, fun s => ⟨_, exec_seqPeek s, ?finished, ?frame⟩⟩
  case finished => exact finish_finished .ok (counterOutputs s.seqCnt) s s rfl
  case frame => exact frameBut_finish [] .ok _ s s (frameBut_refl [] s)

/-- Settles O13: the comparison picks the code, and nothing is written before the finish. -/
theorem seqCheckComparesAllSixteenBits : Obligations.SeqCheckComparesAllSixteenBits := by
  intro sq c
  refine ⟨encode_seqCheck sq c, fun s => ⟨_, exec_seqCheck sq c s, ?finished, ?frame⟩⟩
  case finished => exact finish_finished_code (apply_ite Status.byte _ _ _) s s rfl
  case frame => exact frameBut_finish [] _ .absent s s (frameBut_refl [] s)

end Sys2Proof.Proofs
end

section
/-! The encoder family: the checks of the encoders as the chain of conditions R161 and R167 give (R246), where each
field of a data-form response stands (R95, R166), and how an encoder answers an error and emits a frame (R248). -/

namespace Sys2Proof.Machine

/-! The checks, in their order (R246). -/

/-- The check of the request encoders as a chain of conditions (R161, R164). -/
theorem reqCheck_eq_ite (c : Cfg) (t : Byte) (p : List Byte) :
    reqCheck c t p =
      if kindOf c t = none then .illegalType
      else if p.length > 1024 then .illegalLength
      else if kindOf c t = some .data ∧ p.length ≠ 1024 then .illegalLength
      else .ok := by
  rcases reqCheck_cases c t p with
    ⟨hkind, h⟩ | ⟨k, hkind, ⟨hlong, h⟩ | ⟨hshort, rfl, hblock, h⟩ | ⟨hshort, hdata, h⟩⟩
  · rw [h, if_pos hkind]
  · simp [h, hkind, hlong]
  · simp [h, hkind, hblock]
  · have hblock : ¬(kindOf c t = some .data ∧ p.length ≠ 1024) := by simpa [hkind] using hdata
    rw [h, if_neg (by simp [hkind]), if_neg (Nat.not_lt.mpr hshort), if_neg hblock]

/-- The kinds with the data form and their payload lengths (R95). -/
theorem rspForm_eq_dataForm_iff {k : ReqType} {n : Nat} :
    rspForm k = .dataForm n ↔ (k = .query ∧ n = 11) ∨ (k = .board ∧ n = 7) := by
  cases k <;> simp [rspForm, Config.chipInfoLen, Config.boardRspLen, eq_comm]

/-- The kinds with the status-only form (R95). -/
theorem rspForm_eq_statusOnly_iff {k : ReqType} : rspForm k = .statusOnly ↔ k ≠ .query ∧ k ≠ .board := by
  cases k <;> simp [rspForm]

/-- The check of ENC_RSP_DATA as a chain of conditions (R167). -/
theorem rspCheck_eq_ite (c : Cfg) (t : Byte) (p : List Byte) :
    rspCheck c t p =
      if kindOf c t = none then .illegalType
      else if kindOf c t ≠ some .query ∧ kindOf c t ≠ some .board then .illegalType
      else if p.length ≠ (if kindOf c t = some .query then 11 else 7) then .illegalLength
      else .ok := by
  rcases rspCheck_cases c t p with ⟨hkind, h⟩ | ⟨k, hkind, ⟨hform, h⟩ | ⟨n, hform, hlen⟩⟩
  · rw [h, if_pos hkind]
  · simp [h, hkind, rspForm_eq_statusOnly_iff.mp hform]
  · rcases rspForm_eq_dataForm_iff.mp hform with ⟨rfl, rfl⟩ | ⟨rfl, rfl⟩ <;>
      rcases hlen with ⟨hlen, h⟩ | ⟨hlen, h⟩ <;> simp [h, hkind, hlen]

/-! The fields of a data-form response, by offset (R95, R166). -/

section
variable (c : Cfg) (t : Byte) (p : List Byte) (cs : Byte)

theorem byteAt_rspData_type : byteAt (rspData c t p cs) 0 = t ||| 0x80 := rfl

theorem slice_rspData_payload : slice (rspData c t p cs) 1 p.length = p := by
  rw [rspData, List.append_assoc]
  exact slice_middle [rspType t] p _ _ _ rfl (Nat.add_comm _ _)

/-- Bytes 0 to n are the type byte and the payload. -/
theorem slice_rspData_typeAndPayload : slice (rspData c t p cs) 0 p.length = [rspType t] ++ p := by
  rw [rspData, List.append_assoc]
  exact slice_middle [] ([rspType t] ++ p) _ _ _ rfl (by simp)

/-- The covered bytes are the ones the configured span names (R95, R129). -/
theorem rspCovered_eq_slice :
    rspCovered c (rspType t) p =
      if c.rspCrcSpan = .typeAndPayload then slice (rspData c t p cs) 0 p.length
      else slice (rspData c t p cs) 1 p.length := by
  rw [slice_rspData_typeAndPayload, slice_rspData_payload]
  cases h : c.rspCrcSpan <;> simp [rspCovered, h]

theorem slice_rspData_checksum :
    slice (rspData c t p cs) (p.length + 1) (p.length + 2) =
      ser16 (crc16 c (rspCovered c (rspType t) p)) c.crcOrder :=
  slice_middle ([rspType t] ++ p) _ [cs] _ _ (by simp) (by simp)

/-- The last byte is the checksum_state byte. -/
theorem byteAt_rspData_cstate : byteAt (rspData c t p cs) (p.length + 3) = cs := by
  have hlen : ([rspType t] ++ p ++ ser16 (crc16 c (rspCovered c (rspType t) p)) c.crcOrder).length = p.length + 3 := by
    simp
  rw [rspData, ← hlen]
  exact byteAt_append_right _ [cs] 0

end

/-! The messages of the encoder commands (R82, R161, R164, R167). -/

theorem encode_encReq (t : Byte) (sq : Half) (p : List Byte) :
    encode (.encReq t sq p) = [0x20, t] ++ ser16 sq .le ++ ser16 (BitVec.ofNat 16 p.length) .le ++ p := by
  simp [encode, Instr.code, Instr.operands, Operand.bytes]

theorem encode_encReqNext (t : Byte) (p : List Byte) :
    encode (.encReqNext t p) = [0x21, t] ++ ser16 (BitVec.ofNat 16 p.length) .le ++ p := by
  simp [encode, Instr.code, Instr.operands, Operand.bytes]

theorem encode_encRspData (t : Byte) (p : List Byte) (cs : Byte) :
    encode (.encRspData t p cs) = [0x22, t] ++ ser16 (BitVec.ofNat 16 p.length) .le ++ p ++ [cs] := by
  simp [encode, Instr.code, Instr.operands, Operand.bytes]

/-! The two ways an encoder command completes: on an error it only finishes, otherwise it emits and finishes (R248). -/

/-- A command that only finishes, with e and no outputs, changes nothing else. -/
theorem exec_only_finishes {i : Instr} {s : State} {e : Status} {code : Byte} (hcode : e.byte = code)
    (h : exec i s = .next (finish e .absent s)) :
    ∃ u, exec i s = .next u ∧ Finished s u code .absent ∧ FrameBut [] s u :=
  ⟨_, h, finish_finished_code hcode s s rfl, frameBut_finish [] e .absent s s (frameBut_refl [] s)⟩

/-- A command that emits f and finishes with 0x00 appends f to TX and changes nothing else. -/
theorem exec_emits {i : Instr} {s : State} {out : Outputs} {f : List Byte}
    (h : exec i s = .next (finish .ok out (emit f s))) :
    ∃ u, exec i s = .next u ∧ Finished s u 0x00 out ∧ u.tx = s.tx ++ f ∧ FrameBut [.tx] s u := by
  refine ⟨_, h, ?finished, ?tx, ?frame⟩
  case finished => exact finish_finished .ok out s _ (emit_err f s)
  case tx => rw [finish_tx, emit_tx]
  case frame => exact frameBut_finish _ .ok out s _ (frameBut_emit f s)

/-- A command that takes the counter's value, emits f and finishes with 0x00. -/
theorem exec_increments_and_emits {i : Instr} {s : State} {out : Outputs} {f : List Byte}
    (h : exec i s = .next (finish .ok out (emit f (setCnt (inc8 s.seqCnt) s)))) :
    ∃ u, exec i s = .next u ∧ Finished s u 0x00 out ∧ u.seqCnt.toNat = (s.seqCnt.toNat + 1) % 256 ∧
      u.tx = s.tx ++ f ∧ FrameBut [.seqCnt, .tx] s u := by
  refine ⟨_, h, ?finished, ?cnt, ?tx, ?frame⟩
  case finished => exact finish_finished .ok out s _ rfl
  case cnt => rw [finish_seqCnt, emit_seqCnt, setCnt_seqCnt, inc8_toNat]
  case tx => rw [finish_tx, emit_tx, setCnt_tx]
  case frame => exact frameBut_finish _ .ok out s _ (frameBut_trans (frameBut_setCnt _ s) (frameBut_emit f _))

end Sys2Proof.Machine

namespace Sys2Proof.Proofs

open Sys2Proof Sys2Proof.Machine

/-- Settles O17: each condition of R161 names the check's answer, and the answer decides how ENC_REQ completes. -/
theorem encReqEmitsRequestFrame : Obligations.EncReqEmitsRequestFrame := by
  intro t sq p
  refine ⟨encode_encReq t sq p, fun s => ?_⟩
  have hcheck := reqCheck_eq_ite s.cfg t p
  split_ifs at hcheck ⊢ with hkind hlong hblock
  · exact exec_only_finishes rfl (execEncReq_err .illegalType hcheck (by decide))
  · exact exec_only_finishes rfl (execEncReq_err .illegalLength hcheck (by decide))
  · exact exec_only_finishes rfl (execEncReq_err .illegalLength hcheck (by decide))
  · rw [← lenOutput_reqFrame s.cfg t sq p]
    exact exec_emits (execEncReq_ok hcheck)

/-- Settles O18: the checks are those of O17, and only the passing command advances the counter. -/
theorem encReqNextTakesCounterValue : Obligations.EncReqNextTakesCounterValue := by
  intro t p
  refine ⟨encode_encReqNext t p, fun s => ?_⟩
  have hcheck := reqCheck_eq_ite s.cfg t p
  split_ifs at hcheck ⊢ with hkind hlong hblock
  · exact exec_only_finishes rfl (execEncReqNext_err .illegalType hcheck (by decide))
  · exact exec_only_finishes rfl (execEncReqNext_err .illegalLength hcheck (by decide))
  · exact exec_only_finishes rfl (execEncReqNext_err .illegalLength hcheck (by decide))
  · rw [← lenOutput_reqFrame s.cfg t (seq16 s.seqCnt) p]
    exact exec_increments_and_emits (execEncReqNext_ok hcheck)

/-- Settles O22: each condition of R167 names the check's answer, and the answer decides how ENC_RSP_DATA completes. -/
theorem encRspDataEmitsDataForm : Obligations.EncRspDataEmitsDataForm := by
  intro t p cs
  refine ⟨encode_encRspData t p cs, fun s => ?_⟩
  have hcheck := rspCheck_eq_ite s.cfg t p
  generalize (if kindOf s.cfg t = some .query then 11 else 7) = n at hcheck ⊢
  split_ifs at hcheck ⊢ with hkind hform hlen
  · exact exec_only_finishes rfl (execEncRspData_err .illegalType hcheck (by decide))
  · exact exec_only_finishes rfl (execEncRspData_err .illegalType hcheck (by decide))
  · exact exec_only_finishes rfl (execEncRspData_err .illegalLength hcheck (by decide))
  · rw [← lenOutput_rspData s.cfg t p cs]
    exact exec_emits (execEncRspData_ok hcheck)

/-- Settles O23: ENC_RSP_STATUS has no check, and emits its operand. -/
theorem encRspStatusEmitsOneByte : Obligations.EncRspStatusEmitsOneByte :=
  fun _ => ⟨rfl, fun _ => exec_emits rfl⟩

/-- Settles O24: the table of forms by definition, the data form field by field. -/
theorem responseFrameLayout : Obligations.ResponseFrameLayout := by
  refine ⟨?forms, fun _ => rfl, fun c t p cs => ⟨?length, ?type, ?payload, ?checksum, ?cstate⟩⟩
  case forms => exact ⟨rfl, rfl, rfl, rfl, rfl⟩
  case length => exact rspData_length ..
  case type => exact byteAt_rspData_type ..
  case payload => exact slice_rspData_payload ..
  case checksum =>
    rw [← rspCovered_eq_slice]
    exact slice_rspData_checksum ..
  case cstate => exact byteAt_rspData_cstate ..

end Sys2Proof.Proofs
end

section
/-! The decoder family: the verdicts on a whole frame as the chains of conditions R181 and R192 give (R246), when such a
verdict is 0x00 (R190), and the payload fields byte by byte (R198, R200). -/

namespace Sys2Proof

/-! Words inside a string (R12). -/

/-- A byte of a slice is a byte of the string. -/
theorem byteAt_slice (s : List Byte) {i j k : Nat} (h : i + k ≤ j) : byteAt (slice s i j) k = byteAt s (i + k) := by
  have hk : k < j + 1 - i := by omega
  rw [slice, byteAt_take _ _ _ hk]
  simp [byteAt, List.getD_eq_getElem?_getD, List.getElem?_drop]

/-- The word in bytes i to i + 3 of a string, in either byte order. -/
theorem de32_slice (s : List Byte) (i : Nat) (o : Order) :
    de32 (slice s i (i + 3)) o =
      if o = .be then byteAt s i ++ byteAt s (i + 1) ++ byteAt s (i + 2) ++ byteAt s (i + 3)
      else byteAt s (i + 3) ++ byteAt s (i + 2) ++ byteAt s (i + 1) ++ byteAt s i := by
  have h0 : byteAt (slice s i (i + 3)) 0 = byteAt s i := byteAt_slice s (by omega)
  have h1 : byteAt (slice s i (i + 3)) 1 = byteAt s (i + 1) := byteAt_slice s (by omega)
  have h2 : byteAt (slice s i (i + 3)) 2 = byteAt s (i + 2) := byteAt_slice s (by omega)
  have h3 : byteAt (slice s i (i + 3)) 3 = byteAt s (i + 3) := byteAt_slice s (by omega)
  cases o <;> simp [de32, h0, h1, h2, h3]

/-- The first byte of a slice from offset 0, and the rest of it. -/
theorem slice_zero_eq_cons {s : List Byte} (n : Nat) (h : 0 < s.length) : slice s 0 n = byteAt s 0 :: slice s 1 n := by
  cases s with
  | nil => cases h
  | cons b rest => simp [slice]

end Sys2Proof

namespace Sys2Proof.Machine

/-! The verdicts, by number (R241). -/

/-- The code of DEC_RSP for a whole data-form reply (R181, R246). -/
theorem rspVerdict_byte (c : Cfg) (t : Byte) (r : RspFields) :
    (rspVerdict c t r).byte =
      if r.type ≠ t ||| 0x80 then 0x11
      else if r.cstate ≠ 0xAA ∧ r.cstate ≠ 0x55 then 0x12
      else if crc16 c (rspCovered c r.type r.payload) ≠ r.checksum then 0x20
      else csCode r.cstate := by
  simp only [rspVerdict, apply_ite Status.byte, csClass_byte]
  rfl

/-- The code of DEC_REQ for a whole frame (R192, R246). -/
theorem reqVerdict_byte (c : Cfg) (r : ReqFields) :
    (reqVerdict c r).byte =
      if isReq c r.type = false then 0x11
      else if r.cmp ≠ ~~~r.sq then 0x30
      else if crc16 c r.covered ≠ r.checksum then 0x20
      else 0x00 := by
  simp only [reqVerdict, cmp16_eq_not, apply_ite Status.byte]
  rfl

/-- The bytes a reply's checksum covers, as a slice of the reply (R95, R129). -/
theorem rspCovered_byteAt_slice (c : Cfg) (n : Nat) {f : List Byte} (h : 0 < f.length) :
    rspCovered c (byteAt f 0) (slice f 1 n) =
      if c.rspCrcSpan = .typeAndPayload then slice f 0 n else slice f 1 n := by
  rw [slice_zero_eq_cons n h]
  cases hspan : c.rspCrcSpan <;> simp [rspCovered, hspan]

/-- DEC_REQ passes a whole frame exactly when the frame is valid (R190, R192). -/
theorem reqVerdict_eq_ok_iff {c : Cfg} {n : Nat} {f : List Byte} (hlen : f.length = 7 + n) :
    reqVerdict c (reqFields c n f) = .ok ↔ ValidRequest c n f := by
  rcases reqVerdict_cases c (reqFields c n f) with
    ⟨htype, h⟩ | ⟨_, hcmp, h⟩ | ⟨_, _, hcrc, h⟩ | ⟨htype, hcmp, hcrc, h⟩
  · have hinvalid : ¬ ValidRequest c n f := fun ⟨_, hv, _, _⟩ => Bool.false_ne_true (htype.symm.trans hv)
    simp [h, hinvalid]
  · have hinvalid : ¬ ValidRequest c n f := fun ⟨_, _, hv, _⟩ => hcmp hv
    simp [h, hinvalid]
  · have hinvalid : ¬ ValidRequest c n f := fun ⟨_, _, _, hv⟩ => hcrc hv.symm
    simp [h, hinvalid]
  · exact iff_of_true h ⟨hlen, htype, hcmp, hcrc.symm⟩

/-! What DEC_RSP does to RX and to the captured byte (R28, R29, R53, R181). -/

/-- Draining an empty RX changes nothing. -/
theorem drain_of_rx_eq_nil {s : State} (h : s.rx = []) : drain s = s := by
  cases s
  cases h
  rfl

/-- A status-only reply that has not arrived (R181, R184). -/
theorem decRspStatusOnly_of_rx_eq_nil {s : State} (h : s.rx = []) :
    decRspStatusOnly s = finish .framingShort .absent (captureNone s) := by
  simp only [decRspStatusOnly, h, drain_of_rx_eq_nil h]

/-- A status-only reply is the first byte of RX (R181, R185). -/
theorem decRspStatusOnly_of_rx_eq_cons {s : State} {b : Byte} {rest : List Byte} (h : s.rx = b :: rest) :
    decRspStatusOnly s = finish (csClass b) (.stateByte b) (captureState b (dropRx 1 s)) := by
  simp only [decRspStatusOnly, h]

/-- DEC_RSP with nothing to read finishes without outputs; the capture is all it writes (R181, R187). -/
theorem finish_captureNone_spec (x : Status) (s : State) :
    Finished s (finish x .absent (captureNone s)) x.byte .absent ∧
      CaptureCleared (finish x .absent (captureNone s)) ∧
      FrameBut [.capture] s (finish x .absent (captureNone s)) :=
  ⟨finish_finished x .absent s _ rfl, ⟨rfl, rfl⟩, frameBut_finish _ x .absent s _ (frameBut_captureNone s)⟩

/-- On a short reply DEC_RSP writes RX and the capture only (R184). -/
theorem frameBut_finish_captureNone_drain (x : Status) (out : Outputs) (s : State) :
    FrameBut [.capture, .rx] s (finish x out (captureNone (drain s))) :=
  frameBut_finish _ x out s _ (frameBut_mono (frameBut_drain_captureNone s) (by decide))

/-- On a reply that is there DEC_RSP writes RX and the capture only (R183). -/
theorem frameBut_finish_captureState_dropRx (x : Status) (out : Outputs) (b : Byte) (n : Nat) (s : State) :
    FrameBut [.capture, .rx] s (finish x out (captureState b (dropRx n s))) :=
  frameBut_finish _ x out s _ (frameBut_mono (frameBut_dropRx_captureState n b s) (by decide))

/-! The messages of the decoder commands with a length or a string (R82, R192, R198, R200). -/

theorem encode_decReq (m : Half) : encode (.decReq m) = 0x31 :: ser16 m .le := by
  simp [encode, Instr.code, Instr.operands, Operand.bytes]

theorem encode_parseChipInfo (p : List Byte) :
    encode (.parseChipInfo p) = 0x33 :: (ser16 (BitVec.ofNat 16 p.length) .le ++ p) := by
  simp [encode, Instr.code, Instr.operands, Operand.bytes]

theorem encode_parseBoard (p : List Byte) :
    encode (.parseBoard p) = 0x34 :: (ser16 (BitVec.ofNat 16 p.length) .le ++ p) := by
  simp [encode, Instr.code, Instr.operands, Operand.bytes]

/-! The payload decoders (R198, R200). -/

/-- The fields of a Chip Info payload from its bytes (R98). -/
theorem chipInfoOutputs_eq (c : Cfg) (p : List Byte) :
    chipInfoOutputs c p =
      .chipInfo ((byteAt p 0).getLsbD c.caBit) ((byteAt p 0).getLsbD c.teeBit) ((byteAt p 0).getLsbD c.multiformBit)
        (byteAt p 3 ++ byteAt p 4 ++ byteAt p 5 ++ byteAt p 6)
        (byteAt p 7 ++ byteAt p 8 ++ byteAt p 9 ++ byteAt p 10) := by
  rw [chipInfoOutputs, de32_slice p 3, de32_slice p 7]
  rfl

/-- The value of a Board response payload from its bytes (R99). -/
theorem boardOutputs_eq (c : Cfg) (p : List Byte) :
    boardOutputs c p =
      .boardValue (if c.boardOrder = .be then byteAt p 3 ++ byteAt p 4 ++ byteAt p 5 ++ byteAt p 6
        else byteAt p 6 ++ byteAt p 5 ++ byteAt p 4 ++ byteAt p 3) := by
  rw [boardOutputs, de32_slice p 3]

/-- A command that only finishes: with 0x42 and no outputs unless its payload has n bytes, with 0x00 otherwise. -/
theorem exec_finishes_of_exactLength {i : Instr} {s : State} {len n : Nat} {out : Outputs}
    (h : exec i s = .next (if len ≠ n then finish .illegalLength .absent s else finish .ok out s)) :
    ∃ u, exec i s = .next u ∧ FrameBut [] s u ∧
      if len ≠ n then Finished s u 0x42 .absent else Finished s u 0x00 out := by
  refine ⟨_, h, (completedWithin_ite _ _ _ _ s).frameBut, ?finished⟩
  split_ifs
  · exact finish_finished .illegalLength .absent s s rfl
  · exact finish_finished .ok out s s rfl

end Sys2Proof.Machine

namespace Sys2Proof.Proofs

open Sys2Proof Sys2Proof.Machine

/-- Settles O25, along the ways DEC_RSP can go: an unknown type, a status-only reply, a short and a whole data-form
reply. -/
theorem decRspDecodesReply : Obligations.DecRspDecodesReply := by
  intro t
  refine ⟨rfl, fun s => ?_⟩
  rcases execDecRsp_cases t s with
    ⟨hkind, h⟩ | ⟨k, hkind, hform, h⟩ | ⟨k, n, hkind, hform, hshort, h⟩ | ⟨k, n, hkind, hform, hwhole, h⟩
  · refine ⟨_, h, ?_⟩
    simp only [hkind]
    exact finish_captureNone_spec .illegalType s
  · refine ⟨_, h, ?_⟩
    cases hrx : s.rx with
    | nil =>
      simp only [hkind, hform, decRspStatusOnly_of_rx_eq_nil hrx]
      exact finish_captureNone_spec .framingShort s
    | cons b rest =>
      simp only [hkind, hform, decRspStatusOnly_of_rx_eq_cons hrx]
      refine ⟨finish_finished_code (csClass_byte b) s _ rfl, ⟨rfl, rfl⟩, ?taken,
        frameBut_finish_captureState_dropRx _ _ b 1 s⟩
      simp [hrx]
  · refine ⟨_, h, ?_⟩
    simp only [hkind, hform, if_pos hshort]
    exact ⟨finish_finished .framingShort .absent s _ rfl, ⟨rfl, rfl⟩, rfl, frameBut_finish_captureNone_drain _ _ s⟩
  · rw [rspFields_take] at h
    refine ⟨_, h, ?_⟩
    simp only [hkind, hform, if_neg (Nat.not_lt.mpr hwhole)]
    rw [← rspCovered_byteAt_slice s.cfg n (f := s.rx) (by omega)]
    exact ⟨finish_finished_code (rspVerdict_byte s.cfg t _) s _ rfl, ⟨rfl, rfl⟩, rfl,
      frameBut_finish_captureState_dropRx _ _ _ _ s⟩

/-- Settles O26, along the ways DEC_REQ can go: a length out of range, a short frame, a whole one. -/
theorem decReqDecodesRequest : Obligations.DecReqDecodesRequest := by
  intro m
  refine ⟨encode_decReq m, fun s => ?_⟩
  rcases execDecReq_cases m s with ⟨hlong, h⟩ | ⟨hmax, hshort, h⟩ | ⟨hmax, hwhole, h⟩
  · simp only [if_pos hlong]
    exact exec_only_finishes rfl h
  · refine ⟨_, h, ?_⟩
    simp only [if_neg (Nat.not_lt.mpr hmax), if_pos hshort]
    exact ⟨finish_finished .framingShort .absent s _ rfl, rfl, frameBut_finish _ _ _ s _ (frameBut_drain s)⟩
  · rw [reqFields_take] at h
    refine ⟨_, h, ?_⟩
    simp only [if_neg (Nat.not_lt.mpr hmax), if_neg (Nat.not_lt.mpr hwhole)]
    exact ⟨finish_finished_code (reqVerdict_byte s.cfg _) s _ rfl, rfl,
      frameBut_finish _ _ _ s _ (frameBut_dropRx _ s)⟩

/-- Settles O27: DEC_REQ takes the whole frame, and its verdict is 0x00 on a valid one only. -/
theorem decReqAcceptsExactlyValidFrames : Obligations.DecReqAcceptsExactlyValidFrames := by
  intro s m f rest hmax hlen hrx
  rcases execDecReq_cases m s with ⟨hlong, _⟩ | ⟨_, hshort, _⟩ | ⟨_, _, h⟩
  · exact absurd hlong (Nat.not_lt.mpr hmax)
  · rw [hrx, List.length_append] at hshort
    omega
  · have hframe : m.toNat + 7 = f.length := by omega
    rw [hrx, hframe, List.take_left] at h
    refine ⟨_, h, ?rest, ?code⟩
    case rest => rw [finish_rx, dropRx_rx, hrx, List.drop_left]
    case code => rw [finish_code, Status.byte_eq_zero, reqVerdict_eq_ok_iff hlen]

/-- Settles O32, from the length check of R198 and the fields byte by byte. -/
theorem parseChipInfoSplitsFields : Obligations.ParseChipInfoSplitsFields := by
  intro p
  refine ⟨encode_parseChipInfo p, fun s => ?_⟩
  rw [← chipInfoOutputs_eq]
  exact exec_finishes_of_exactLength rfl

/-- Settles O33, from the length check of R200 and the value byte by byte. -/
theorem parseBoardExtractsValue : Obligations.ParseBoardExtractsValue := by
  intro p
  refine ⟨encode_parseBoard p, fun s => ?_⟩
  rw [← boardOutputs_eq]
  exact exec_finishes_of_exactLength rfl

end Sys2Proof.Proofs
end

section
/-! Reset (R270): the start state and the state a reset action leaves are the same state, but for the configuration it is
under and the host's pending actions; and what the read port answers where the fields behind a register are clear (R31). -/

namespace Sys2Proof.Machine

/-! The registers with clear fields (R26, R31). -/

/-- SEQ has no field but the counter (R21). -/
theorem readRegValue_zero_of_clear {s : State} (hcnt : s.seqCnt = 0) : readRegValue s 0 = 0 := by
  apply BitVec.eq_of_toNat_eq
  rw [readRegValue_zero_toNat, hcnt]
  rfl

/-- STATUS has no fields but CODE, CSTATE, CSTATE_VALID and ERR (R26). -/
theorem statusWord_of_clear {s : State} (hcode : s.code = 0) (hcstate : s.cstate = 0) (hvalid : s.csValid = false)
    (herr : s.err = false) : statusWord s = 0 := by
  apply BitVec.eq_of_getLsbD_eq
  intro i _
  simp [statusWord_getLsbD, hcode, hcstate, hvalid, herr]

/-! The states after a reset (R270). -/

/-- s is the reset state under its own configuration, whatever the host has pending (R270, R273). -/
def IsResetState (s : State) : Prop := s = { State.resetWith s.cfg with port := s.port }

/-- The machine starts in a reset state (R270). -/
theorem reset_isResetState : IsResetState State.reset := rfl

/-- A reset action leaves a reset state, whatever state it starts from (R270). -/
theorem perform_reset_isResetState {r s : State} (h : perform .reset r = .next s) : IsResetState s := by
  cases h
  rfl

/-- The fields of a reset state (R270). -/
theorem IsResetState.fields {s : State} (h : IsResetState s) :
    s.seqCnt = 0 ∧ s.crcAcc = s.cfg.crcInit ∧ s.code = 0x00 ∧ s.cstate = 0x00 ∧ s.csValid = false ∧ s.err = false ∧
      s.tx = [] ∧ s.rx = [] := by
  rw [h]
  exact ⟨rfl, rfl, rfl, rfl, rfl, rfl, rfl, rfl⟩

end Sys2Proof.Machine

namespace Sys2Proof.Proofs

open Sys2Proof Sys2Proof.Machine

/-- Settles O54: the start state and the outcome of a reset are reset states, and SEQ and STATUS read 0 because the fields
of a reset state are clear. -/
theorem resetSetsEveryField : Obligations.ResetSetsEveryField := by
  intro s hs
  have hreset : IsResetState s := by
    rcases hs with rfl | ⟨r, hr⟩
    · exact reset_isResetState
    · exact perform_reset_isResetState hr
  obtain ⟨hcnt, hacc, hcode, hcstate, hvalid, herr, htx, hrx⟩ := hreset.fields
  exact ⟨hcnt, hacc, hcode, hcstate, hvalid, herr, htx, hrx, readRegValue_zero_of_clear hcnt,
    statusWord_of_clear hcode hcstate hvalid herr⟩

end Sys2Proof.Proofs
end

section
/-! The effect of a command as data: the status it finishes with, its outputs, and what it writes before it finishes. The
effect is computed from what a command reads, and every command does what its effect says; what a command writes, what it
does not read, and the invariant of the block are then facts about effects. -/

namespace Sys2Proof.Machine

/-- What a command does to CSTATE and CSTATE_VALID (R28, R29). -/
inductive Capture where
  | kept
  | cleared
  | byte (b : Byte)

/-- CSTATE after it. -/
def Capture.cstate (old : Byte) : Capture → Byte
  | .kept => old
  | .cleared => 0x00
  | .byte b => b

/-- CSTATE_VALID after it. -/
def Capture.csValid (old : Bool) : Capture → Bool
  | .kept => old
  | .cleared => false
  | .byte _ => true

/-- What a command does to the state: the values it writes, the bytes it appends to TX and the number it takes from RX, and
how it finishes. By default it only finishes, with 0x00 and no outputs. -/
structure Effect where
  status : Status := .ok
  outputs : Outputs := .absent
  cnt : Option Byte := none
  acc : Option Half := none
  capture : Capture := .kept
  sent : List Byte := []
  taken : Nat := 0

def Effect.run (e : Effect) (s : State) : State :=
  finish e.status e.outputs
    { s with
      seqCnt := e.cnt.getD s.seqCnt
      crcAcc := e.acc.getD s.crcAcc
      cstate := e.capture.cstate s.cstate
      csValid := e.capture.csValid s.csValid
      tx := s.tx ++ e.sent
      rx := s.rx.drop e.taken }

/-- The effect of a command behind a check: on an error it only finishes (R248). -/
def Effect.after (check : Status) (e : Effect) : Effect := if check = .ok then e else { status := check }

/-- The effect of DEC_RSP, by the form of the reply asked for and what is in RX (R181). -/
def decRspEffect (t : Byte) (s : State) : Effect :=
  match (kindOf s.cfg t).map rspForm, s.rx with
  | none, _ => { status := .illegalType, capture := .cleared }
  | some .statusOnly, [] => { status := .framingShort, capture := .cleared }
  | some .statusOnly, b :: _ => { status := csClass b, outputs := .stateByte b, capture := .byte b, taken := 1 }
  | some (.dataForm n), rx =>
    if rx.length < n + 4 then { status := .framingShort, capture := .cleared, taken := rx.length }
    else
      let r := rspFields s.cfg n (rx.take (n + 4))
      { status := rspVerdict s.cfg t r, outputs := r.outputs, capture := .byte r.cstate, taken := n + 4 }

/-- The effect of DEC_REQ, by its length operand and what is in RX (R192). -/
def decReqEffect (m : Half) (s : State) : Effect :=
  if m.toNat > 1024 then { status := .illegalLength }
  else if s.rx.length < m.toNat + 7 then { status := .framingShort, taken := s.rx.length }
  else
    let r := reqFields s.cfg m.toNat (s.rx.take (m.toNat + 7))
    { status := reqVerdict s.cfg r, outputs := r.outputs, taken := m.toNat + 7 }

/-- The effect of each command (R122 to R200). -/
def effect : Instr → State → Effect
  | .crcClear, s => { acc := some s.cfg.crcInit }
  | .crcUpdate b, s => { acc := some (crcStep s.cfg s.crcAcc b) }
  | .crcFinal, s => { outputs := .checksum (crcFinal s.cfg s.crcAcc) }
  | .crcCompute d, s =>
    if d.length > 1031 then { status := .illegalLength } else { outputs := .checksum (crc16 s.cfg d) }
  | .crcCheck d v, s =>
    if d.length > 1031 then { status := .illegalLength }
    else { status := if crc16 s.cfg d = v then .ok else .checksumMismatch, outputs := .checksum (crc16 s.cfg d) }
  | .seqRestart, _ => { cnt := some 0 }
  | .seqNext, s => { outputs := counterOutputs s.seqCnt, cnt := some (inc8 s.seqCnt) }
  | .seqPeek, s => { outputs := counterOutputs s.seqCnt }
  | .seqCheck sq c, _ => { status := if c = ~~~sq then .ok else .complementMismatch }
  | .encReq t sq p, s =>
    let f := reqFrame s.cfg t sq p
    .after (reqCheck s.cfg t p) { outputs := .frameLen (lenOutput f), sent := f }
  | .encReqNext t p, s =>
    let f := reqFrame s.cfg t (seq16 s.seqCnt) p
    .after (reqCheck s.cfg t p)
      { outputs := .frameLenSeq (lenOutput f) (seq16 s.seqCnt), cnt := some (inc8 s.seqCnt), sent := f }
  | .encRspData t p cs, s =>
    let f := rspData s.cfg t p cs
    .after (rspCheck s.cfg t p) { outputs := .frameLen (lenOutput f), sent := f }
  | .encRspStatus cs, _ => { outputs := .frameLen (lenOutput (rspStatus cs)), sent := rspStatus cs }
  | .decRsp t, s => decRspEffect t s
  | .decReq m, s => decReqEffect m s
  | .csClassify b, _ => { status := csClass b, capture := .byte b }
  | .parseChipInfo p, s =>
    if p.length ≠ 11 then { status := .illegalLength } else { outputs := chipInfoOutputs s.cfg p }
  | .parseBoard p, s =>
    if p.length ≠ 7 then { status := .illegalLength } else { outputs := boardOutputs s.cfg p }

/-! What an effect leaves in each field. -/

section
variable (e : Effect) (s : State)

@[simp] theorem Effect.run_cfg : (e.run s).cfg = s.cfg := rfl
@[simp] theorem Effect.run_seqCnt : (e.run s).seqCnt = e.cnt.getD s.seqCnt := rfl
@[simp] theorem Effect.run_crcAcc : (e.run s).crcAcc = e.acc.getD s.crcAcc := rfl
@[simp] theorem Effect.run_code : (e.run s).code = e.status.byte := rfl
@[simp] theorem Effect.run_cstate : (e.run s).cstate = e.capture.cstate s.cstate := rfl
@[simp] theorem Effect.run_csValid : (e.run s).csValid = e.capture.csValid s.csValid := rfl
@[simp] theorem Effect.run_err : (e.run s).err = stickyErr s.err e.status := rfl
@[simp] theorem Effect.run_tx : (e.run s).tx = s.tx ++ e.sent := rfl
@[simp] theorem Effect.run_rx : (e.run s).rx = s.rx.drop e.taken := rfl
@[simp] theorem Effect.run_reply : (e.run s).reply = .result { code := e.status.byte, outputs := e.outputs } := rfl

end

/-! Every command does what its effect says. -/

theorem dropRx_rx_length (s : State) : dropRx s.rx.length s = drain s := by simp [dropRx, drain]

/-- An effect that sends nothing. -/
theorem Effect.run_of_sent_eq_nil {e : Effect} (h : e.sent = []) (s : State) :
    e.run s =
      finish e.status e.outputs
        { s with
          seqCnt := e.cnt.getD s.seqCnt
          crcAcc := e.acc.getD s.crcAcc
          cstate := e.capture.cstate s.cstate
          csValid := e.capture.csValid s.csValid
          rx := s.rx.drop e.taken } := by
  rw [run, h, List.append_nil]

/-- An effect that only finishes. -/
theorem Effect.run_finish (x : Status) (out : Outputs) (s : State) :
    ({ status := x, outputs := out } : Effect).run s = finish x out s :=
  Effect.run_of_sent_eq_nil rfl s

/-- A command that only finishes, in one of two ways. -/
theorem Effect.run_ite {c : Prop} [Decidable c] (d e : Effect) (s : State) :
    (if c then d else e).run s = if c then d.run s else e.run s := apply_ite (Effect.run · s) c d e

theorem execEncReq_eq_run (t : Byte) (sq : Half) (p : List Byte) (s : State) :
    execEncReq t sq p s = .next ((effect (.encReq t sq p) s).run s) := by
  by_cases h : reqCheck s.cfg t p = .ok
  · rw [execEncReq_ok h, effect, Effect.after, if_pos h]; rfl
  · rw [execEncReq_err _ rfl h, effect, Effect.after, if_neg h, Effect.run_finish]

theorem execEncReqNext_eq_run (t : Byte) (p : List Byte) (s : State) :
    execEncReqNext t p s = .next ((effect (.encReqNext t p) s).run s) := by
  by_cases h : reqCheck s.cfg t p = .ok
  · rw [execEncReqNext_ok h, effect, Effect.after, if_pos h]; rfl
  · rw [execEncReqNext_err _ rfl h, effect, Effect.after, if_neg h, Effect.run_finish]

theorem execEncRspData_eq_run (t : Byte) (p : List Byte) (cs : Byte) (s : State) :
    execEncRspData t p cs s = .next ((effect (.encRspData t p cs) s).run s) := by
  by_cases h : rspCheck s.cfg t p = .ok
  · rw [execEncRspData_ok h, effect, Effect.after, if_pos h]; rfl
  · rw [execEncRspData_err _ rfl h, effect, Effect.after, if_neg h, Effect.run_finish]

theorem decRspStatusOnly_eq_run {t : Byte} {s : State} (hform : (kindOf s.cfg t).map rspForm = some .statusOnly) :
    decRspStatusOnly s = (decRspEffect t s).run s := by
  cases hrx : s.rx with
  | nil =>
    have he : decRspEffect t s = { status := .framingShort, capture := .cleared } := by
      simp only [decRspEffect, hform, hrx]
    rw [decRspStatusOnly_of_rx_eq_nil hrx, he, Effect.run_of_sent_eq_nil rfl]
    rfl
  | cons b rest =>
    have he : decRspEffect t s =
        { status := csClass b, outputs := .stateByte b, capture := .byte b, taken := 1 } := by
      simp only [decRspEffect, hform, hrx]
    rw [decRspStatusOnly_of_rx_eq_cons hrx, he, Effect.run_of_sent_eq_nil rfl]
    rfl

theorem execDecRsp_eq_run (t : Byte) (s : State) : execDecRsp t s = .next ((decRspEffect t s).run s) := by
  rcases execDecRsp_cases t s with
    ⟨hkind, h⟩ | ⟨k, hkind, hform, h⟩ | ⟨k, n, hkind, hform, hshort, h⟩ | ⟨k, n, hkind, hform, hwhole, h⟩
  · simp only [h, decRspEffect, hkind, Option.map_none, Effect.run_of_sent_eq_nil]
    rfl
  · rw [h, decRspStatusOnly_eq_run (by rw [hkind, Option.map_some, hform])]
  · simp only [h, decRspEffect, hkind, Option.map_some, hform, if_pos hshort, Effect.run_of_sent_eq_nil]
    rw [← dropRx_rx_length]
    rfl
  · simp only [h, decRspEffect, hkind, Option.map_some, hform, if_neg (Nat.not_lt.mpr hwhole), Effect.run_of_sent_eq_nil]
    rfl

theorem execDecReq_eq_run (m : Half) (s : State) : execDecReq m s = .next ((decReqEffect m s).run s) := by
  rcases execDecReq_cases m s with ⟨hlong, h⟩ | ⟨hmax, hshort, h⟩ | ⟨hmax, hwhole, h⟩
  · rw [h, decReqEffect, if_pos hlong, Effect.run_finish]
  · rw [h, decReqEffect, if_neg (Nat.not_lt.mpr hmax), if_pos hshort, Effect.run_of_sent_eq_nil rfl, ← dropRx_rx_length]
    rfl
  · rw [h, decReqEffect, if_neg (Nat.not_lt.mpr hmax), if_neg (Nat.not_lt.mpr hwhole), Effect.run_of_sent_eq_nil rfl]
    rfl

/-- Every command completes in every state, by its effect (R240, R243). -/
theorem exec_eq_run (i : Instr) (s : State) : exec i s = .next ((effect i s).run s) := by
  cases i with
  | crcClear => rw [Effect.run_of_sent_eq_nil rfl]; rfl
  | crcUpdate b => rw [Effect.run_of_sent_eq_nil rfl]; rfl
  | crcFinal => rw [effect, Effect.run_finish]; rfl
  | crcCompute d => simp only [effect, Effect.run_ite, Effect.run_finish]; rfl
  | crcCheck d v => simp only [effect, Effect.run_ite, Effect.run_finish]; rfl
  | seqRestart => rw [Effect.run_of_sent_eq_nil rfl]; rfl
  | seqNext => rw [exec_seqNext, Effect.run_of_sent_eq_nil rfl]; rfl
  | seqPeek => rw [exec_seqPeek, effect, Effect.run_finish]
  | seqCheck sq c => rw [exec_seqCheck, effect, Effect.run_finish]
  | encReq t sq p => exact execEncReq_eq_run t sq p s
  | encReqNext t p => exact execEncReqNext_eq_run t p s
  | encRspData t p cs => exact execEncRspData_eq_run t p cs s
  | encRspStatus cs => rfl
  | decRsp t => exact execDecRsp_eq_run t s
  | decReq m => exact execDecReq_eq_run m s
  | csClassify b => rw [Effect.run_of_sent_eq_nil rfl]; rfl
  | parseChipInfo p => simp only [effect, Effect.run_ite, Effect.run_finish]; rfl
  | parseBoard p => simp only [effect, Effect.run_ite, Effect.run_finish]; rfl

/-- The state a command answers with is its effect's. -/
theorem eq_run_of_exec {i : Instr} {s u : State} (h : exec i s = .next u) : u = (effect i s).run s := by
  rw [exec_eq_run] at h
  cases h
  rfl

end Sys2Proof.Machine
end

section
/-! What every command keeps: the parts the spec names no command for, the privacy of CRC_ACC, CNT and TX, the precision of
errors (R248), and the invariant of the block. -/

namespace Sys2Proof.Machine

/-! Which parts a command writes (R21, R23, R28, R29, R52, R53). -/

theorem seqCnt_mem_writtenParts (i : Instr) : .seqCnt ∈ writtenParts i ↔ writesCnt i = true := by
  cases i <;> simp [writtenParts, writesCnt]

theorem crcAcc_mem_writtenParts (i : Instr) : .crcAcc ∈ writtenParts i ↔ writesCrcAcc i = true := by
  cases i <;> simp [writtenParts, writesCrcAcc]

theorem capture_mem_writtenParts (i : Instr) : .capture ∈ writtenParts i ↔ writesCapture i = true := by
  cases i <;> simp [writtenParts, writesCapture]

theorem tx_mem_writtenParts (i : Instr) : .tx ∈ writtenParts i ↔ isEncoder i = true := by
  cases i <;> simp [writtenParts, isEncoder]

theorem rx_mem_writtenParts (i : Instr) : .rx ∈ writtenParts i ↔ readsRx i = true := by
  cases i <;> simp [writtenParts, readsRx]

/-- A part that is not among a command's is the same after it. -/
theorem part_same_of_not_written {i : Instr} {s u : State} (h : exec i s = .next u) {p : Part} {w : Bool}
    (hp : p ∈ writtenParts i ↔ w = true) (hw : w = false) : p.same s u := by
  obtain ⟨u', hu, hc⟩ := exec_completes i s
  cases hu.symm.trans h
  refine hc.frameBut.2.2 p fun hin => ?_
  rw [hp.mp hin] at hw
  cases hw

/-- A completed command has one of the codes of R241. -/
theorem CompletedWithin.code_legal {ps : List Part} {s u : State} (h : CompletedWithin ps s u) : u.code ∈ legalCodes := by
  obtain ⟨x, out, s', rfl, _, _⟩ := h
  exact x.byte_legal

/-! What a command does not read. -/

theorem effect_with_crcAcc {i : Instr} (h : readsCrcAcc i = false) (s : State) (v : Half) :
    effect i { s with crcAcc := v } = effect i s := by
  cases i with
  | crcUpdate b => cases h
  | crcFinal => cases h
  | _ => rfl

theorem effect_with_seqCnt {i : Instr} (h : readsCnt i = false) (s : State) (v : Byte) :
    effect i { s with seqCnt := v } = effect i s := by
  cases i with
  | seqNext => cases h
  | seqPeek => cases h
  | encReqNext t p => cases h
  | _ => rfl

theorem effect_with_tx (i : Instr) (s : State) (x : List Byte) : effect i { s with tx := x } = effect i s := by
  cases i <;> rfl

/-- CRC_ACC after a command that does not read it: written by CRC_CLEAR, else as before. -/
theorem effect_run_crcAcc {i : Instr} (h : readsCrcAcc i = false) (s : State) (v : Half) :
    ((effect i s).run { s with crcAcc := v }).crcAcc =
      if writesCrcAcc i then ((effect i s).run s).crcAcc else v := by
  cases hw : writesCrcAcc i with
  | true =>
    cases i with
    | crcClear => rfl
    | crcUpdate b => cases h
    | _ => cases hw
  | false =>
    rw [← effect_with_crcAcc h s v]
    exact part_same_of_not_written (exec_eq_run i _) (crcAcc_mem_writtenParts i) hw

/-- CNT after a command that does not read it: written by SEQ_RESTART, else as before. -/
theorem effect_run_seqCnt {i : Instr} (h : readsCnt i = false) (s : State) (v : Byte) :
    ((effect i s).run { s with seqCnt := v }).seqCnt = if writesCnt i then ((effect i s).run s).seqCnt else v := by
  cases hw : writesCnt i with
  | true =>
    cases i with
    | seqRestart => rfl
    | seqNext => cases h
    | encReqNext t p => cases h
    | _ => cases hw
  | false =>
    rw [← effect_with_seqCnt h s v]
    exact part_same_of_not_written (exec_eq_run i _) (seqCnt_mem_writtenParts i) hw

/-! What a command sends (R52). -/

/-- A command that is no encoder appends nothing. -/
theorem effect_sent_of_not_encoder {i : Instr} (h : isEncoder i = false) (s : State) : (effect i s).sent = [] := by
  have htx : ((effect i s).run s).tx = s.tx := part_same_of_not_written (exec_eq_run i s) (tx_mem_writtenParts i) h
  simpa using htx

theorem emittedFrame_of_not_encoder {i : Instr} (h : isEncoder i = false) (s : State) : emittedFrame i s = [] := by
  cases i with
  | encReq t sq p => cases h
  | encReqNext t p => cases h
  | encRspData t p cs => cases h
  | encRspStatus cs => cases h
  | _ => rfl

/-- Behind a check, a frame is sent on 0x00 only. -/
theorem Effect.after_sent (check : Status) {e : Effect} (he : e.status = .ok) :
    (Effect.after check e).sent = if (Effect.after check e).status = .ok then e.sent else [] := by
  by_cases h : check = .ok <;> simp [after, h, he]

/-- On 0x00 a command appends its frame, on an error nothing. -/
theorem effect_sent (i : Instr) (s : State) :
    (effect i s).sent = if (effect i s).status = .ok then emittedFrame i s else [] := by
  cases h : isEncoder i with
  | false => rw [effect_sent_of_not_encoder h, emittedFrame_of_not_encoder h, ite_self]
  | true =>
    cases i with
    | encReq t sq p => exact Effect.after_sent _ rfl
    | encReqNext t p => exact Effect.after_sent _ rfl
    | encRspData t p cs => exact Effect.after_sent _ rfl
    | encRspStatus cs => rfl
    | _ => cases h

/-! Errors (R248). -/

/-- The effect writes neither CNT nor CRC_ACC. -/
def Effect.KeepsCounters (e : Effect) : Prop := e.cnt = none ∧ e.acc = none

theorem Effect.KeepsCounters.ite {c : Prop} [Decidable c] {d e : Effect} (hd : d.KeepsCounters) (he : e.KeepsCounters) :
    (if c then d else e).KeepsCounters := by
  split <;> assumption

/-- Behind a check, an error writes nothing. -/
theorem Effect.after_keepsCounters {check : Status} {e : Effect} (he : e.status = .ok)
    (h : (Effect.after check e).status ≠ .ok) : (Effect.after check e).KeepsCounters := by
  by_cases hc : check = .ok
  · rw [after, if_pos hc] at h
    exact absurd he h
  · rw [after, if_neg hc]
    exact ⟨rfl, rfl⟩

theorem decRspEffect_keepsCounters (t : Byte) (s : State) : (decRspEffect t s).KeepsCounters := by
  unfold decRspEffect
  split
  · exact ⟨rfl, rfl⟩
  · exact ⟨rfl, rfl⟩
  · exact ⟨rfl, rfl⟩
  · exact .ite ⟨rfl, rfl⟩ ⟨rfl, rfl⟩

/-- A command that reports an error advances no counter and steps no accumulator. -/
theorem effect_keepsCounters_of_error {i : Instr} {s : State} (h : (effect i s).status ≠ .ok) :
    (effect i s).KeepsCounters := by
  cases i with
  | crcClear => exact absurd rfl h
  | crcUpdate b => exact absurd rfl h
  | seqRestart => exact absurd rfl h
  | seqNext => exact absurd rfl h
  | encReq t sq p => exact Effect.after_keepsCounters rfl h
  | encReqNext t p => exact Effect.after_keepsCounters rfl h
  | encRspData t p cs => exact Effect.after_keepsCounters rfl h
  | decRsp t => exact decRspEffect_keepsCounters t s
  | decReq m => exact .ite ⟨rfl, rfl⟩ (.ite ⟨rfl, rfl⟩ ⟨rfl, rfl⟩)
  | crcCompute d => exact .ite ⟨rfl, rfl⟩ ⟨rfl, rfl⟩
  | crcCheck d v => exact .ite ⟨rfl, rfl⟩ ⟨rfl, rfl⟩
  | parseChipInfo p => exact .ite ⟨rfl, rfl⟩ ⟨rfl, rfl⟩
  | parseBoard p => exact .ite ⟨rfl, rfl⟩ ⟨rfl, rfl⟩
  | _ => exact ⟨rfl, rfl⟩

/-! The invariant of the block. -/

/-- The statuses that a checksum_state byte calls for (R180). -/
def Status.namesCstate : Status → Bool
  | .rejected => true
  | .framingCstate => true
  | _ => false

/-- REJECTED and FRAMING_CSTATE come with the byte that calls for them captured (R180, R241). -/
def Effect.ClassifiesCapture (e : Effect) : Prop :=
  e.status.namesCstate = true → ∃ b, e.capture = .byte b ∧ e.status = csClass b

theorem Effect.ClassifiesCapture.of_status {e : Effect} (h : e.status.namesCstate = false) : e.ClassifiesCapture :=
  fun h' => absurd (h.symm.trans h') Bool.false_ne_true

theorem Effect.ClassifiesCapture.ite {c : Prop} [Decidable c] {d e : Effect} (hd : d.ClassifiesCapture)
    (he : e.ClassifiesCapture) : (if c then d else e).ClassifiesCapture := by
  split <;> assumption

theorem Effect.after_classifiesCapture {check : Status} (hc : check.namesCstate = false) {e : Effect} (he : e.status = .ok) :
    (Effect.after check e).ClassifiesCapture :=
  .ite (.of_status (by rw [he]; rfl)) (.of_status hc)

theorem reqCheck_namesCstate (c : Cfg) (t : Byte) (p : List Byte) : (reqCheck c t p).namesCstate = false := by
  rcases reqCheck_cases c t p with ⟨_, h⟩ | ⟨_, _, ⟨_, h⟩ | ⟨_, _, _, h⟩ | ⟨_, _, h⟩⟩ <;> rw [h] <;> rfl

theorem rspCheck_namesCstate (c : Cfg) (t : Byte) (p : List Byte) : (rspCheck c t p).namesCstate = false := by
  rcases rspCheck_cases c t p with ⟨_, h⟩ | ⟨_, _, ⟨_, h⟩ | ⟨_, _, ⟨_, h⟩ | ⟨_, h⟩⟩⟩ <;> rw [h] <;> rfl

theorem reqVerdict_namesCstate (c : Cfg) (r : ReqFields) : (reqVerdict c r).namesCstate = false := by
  rcases reqVerdict_cases c r with ⟨_, h⟩ | ⟨_, _, h⟩ | ⟨_, _, _, h⟩ | ⟨_, _, _, h⟩ <;> rw [h] <;> rfl

/-- A verdict on a data-form reply that names its state byte is that byte's classification (R181). -/
theorem rspVerdict_eq_csClass {c : Cfg} {t : Byte} {r : RspFields} (h : (rspVerdict c t r).namesCstate = true) :
    rspVerdict c t r = csClass r.cstate := by
  rcases rspVerdict_cases c t r with ⟨_, hv⟩ | ⟨_, ⟨hok, hbad⟩, hv⟩ | ⟨_, _, _, hv⟩ | ⟨_, _, _, hv⟩
  · rw [hv] at h; cases h
  · rw [hv, csClass]
    exact ((if_neg hok).trans (if_neg hbad)).symm
  · rw [hv] at h; cases h
  · exact hv

theorem decRspEffect_classifiesCapture (t : Byte) (s : State) : (decRspEffect t s).ClassifiesCapture := by
  unfold decRspEffect
  split
  · exact .of_status rfl
  · exact .of_status rfl
  · exact fun _ => ⟨_, rfl, rfl⟩
  · exact .ite (.of_status rfl) fun h => ⟨_, rfl, rspVerdict_eq_csClass h⟩

theorem effect_classifiesCapture (i : Instr) (s : State) : (effect i s).ClassifiesCapture := by
  cases i with
  | crcCompute d => exact .ite (.of_status rfl) (.of_status rfl)
  | crcCheck d v => exact .ite (.of_status rfl) (.of_status (by dsimp only; split <;> rfl))
  | seqCheck sq c => exact .of_status (by dsimp only [effect]; split <;> rfl)
  | encReq t sq p => exact Effect.after_classifiesCapture (reqCheck_namesCstate ..) rfl
  | encReqNext t p => exact Effect.after_classifiesCapture (reqCheck_namesCstate ..) rfl
  | encRspData t p cs => exact Effect.after_classifiesCapture (rspCheck_namesCstate ..) rfl
  | decRsp t => exact decRspEffect_classifiesCapture t s
  | decReq m => exact .ite (.of_status rfl) (.ite (.of_status rfl) (.of_status (reqVerdict_namesCstate ..)))
  | csClassify b => exact fun _ => ⟨b, rfl, rfl⟩
  | parseChipInfo p => exact .ite (.of_status rfl) (.of_status rfl)
  | parseBoard p => exact .ite (.of_status rfl) (.of_status rfl)
  | _ => exact .of_status rfl

theorem Status.byte_eq_one {x : Status} : x.byte = 0x01 ↔ x = .rejected := by cases x <;> decide

theorem Status.byte_eq_eighteen {x : Status} : x.byte = 0x12 ↔ x = .framingCstate := by cases x <;> decide

theorem csClass_eq_rejected {b : Byte} (h : csClass b = .rejected) : b = 0x55 := by
  rcases csClass_cases b with ⟨_, hb⟩ | ⟨hbad, _⟩ | ⟨_, _, hb⟩
  · rw [hb] at h; cases h
  · exact hbad
  · rw [hb] at h; cases h

theorem csClass_eq_framingCstate {b : Byte} (h : csClass b = .framingCstate) : b ≠ 0xAA ∧ b ≠ 0x55 := by
  rcases csClass_cases b with ⟨_, hb⟩ | ⟨_, hb⟩ | ⟨hok, hbad, _⟩
  · rw [hb] at h; cases h
  · rw [hb] at h; cases h
  · exact ⟨hok, hbad⟩

/-- Nothing captured reads 0x00 still. -/
theorem Capture.cstate_of_not_csValid (x : Capture) {old : Byte} {valid : Bool} (hold : valid = false → old = 0x00)
    (h : x.csValid valid = false) : x.cstate old = 0x00 := by
  cases x with
  | kept => exact hold h
  | cleared => rfl
  | byte b => cases h

/-- An effect that classifies what it captures keeps the invariant. -/
theorem BlockInv.run {s : State} (hs : BlockInv s) {e : Effect} (he : e.ClassifiesCapture) : BlockInv (e.run s) where
  cfgLegal := hs.cfgLegal
  codeLegal := e.status.byte_legal
  errShowsCode h := by
    rw [Effect.run_err, stickyErr_eq, Bool.or_eq_false_iff] at h
    exact bne_eq_false_iff_eq.mp h.2
  captureEmpty h := e.capture.cstate_of_not_csValid hs.captureEmpty h
  rejectedIsBad h := by
    have hx : e.status = .rejected := Status.byte_eq_one.mp h
    obtain ⟨b, hcap, hb⟩ := he (by rw [hx]; rfl)
    have hbad : b = 0x55 := csClass_eq_rejected (hb.symm.trans hx)
    exact ⟨by rw [Effect.run_cstate, hcap, hbad]; rfl, by rw [Effect.run_csValid, hcap]; rfl⟩
  framingCstateIsNeither h := by
    have hx : e.status = .framingCstate := Status.byte_eq_eighteen.mp h
    obtain ⟨b, hcap, hb⟩ := he (by rw [hx]; rfl)
    rw [Effect.run_cstate, Effect.run_csValid, hcap]
    exact ⟨rfl, csClass_eq_framingCstate (hb.symm.trans hx)⟩
  resultAgrees r h := by
    cases h
    rfl

/-- A state with the same configuration and STATUS, whose last reply is no result record. -/
theorem BlockInv.of_status_eq {s t : State} (hs : BlockInv s) (hcfg : t.cfg = s.cfg) (hcode : t.code = s.code)
    (hcstate : t.cstate = s.cstate) (hvalid : t.csValid = s.csValid) (herr : t.err = s.err)
    (hreply : ∀ r, t.reply ≠ .result r) : BlockInv t where
  cfgLegal := hcfg ▸ hs.cfgLegal
  codeLegal := hcode ▸ hs.codeLegal
  errShowsCode := by rw [herr, hcode]; exact hs.errShowsCode
  captureEmpty := by rw [hvalid, hcstate]; exact hs.captureEmpty
  rejectedIsBad := by rw [Captured, hvalid, hcstate, hcode]; exact hs.rejectedIsBad
  framingCstateIsNeither := by rw [hvalid, hcstate, hcode]; exact hs.framingCstateIsNeither
  resultAgrees r h := absurd h (hreply r)

/-- The invariant holds after a reset under a legal configuration (R270). -/
theorem blockInv_of_isResetState {s : State} (h : IsResetState s) (hw : s.cfg.wf = true) : BlockInv s := by
  rw [IsResetState] at h
  have hcode : s.code = 0x00 := by rw [h]; rfl
  refine ⟨hw, hcode ▸ by decide, fun _ => hcode, fun _ => by rw [h]; rfl, fun h1 => ?_, fun h1 => ?_, fun r hr => ?_⟩
  · exact absurd (hcode.symm.trans h1) (by decide)
  · exact absurd (hcode.symm.trans h1) (by decide)
  · rw [h] at hr; cases hr

/-- A command message is an effect too, a reserved or malformed one that of an error (R84). -/
theorem runMessage_keeps_blockInv {msg : List Byte} {s t : State} (hs : BlockInv s) (h : runMessage msg s = .next t) :
    BlockInv t := by
  unfold runMessage at h
  split at h
  next i _ =>
    rw [eq_run_of_exec h]
    exact hs.run (effect_classifiesCapture i s)
  next =>
    cases h
    rw [illegalCommand, ← Effect.run_finish]
    exact hs.run (.of_status rfl)

theorem hostTake_keeps_blockInv {n : Nat} {s t : State} (hs : BlockInv s) (h : hostTake n s = .next t) : BlockInv t := by
  unfold hostTake at h
  split at h
  · cases h
    exact hs.of_status_eq rfl rfl rfl rfl rfl nofun
  · cases h

theorem perform_keeps_blockInv {a : HostAction} {s t : State} (hs : BlockInv s) (h : perform a s = .next t) :
    BlockInv t := by
  cases a with
  | command msg => exact runMessage_keeps_blockInv hs h
  | hostPut bs =>
    cases h
    exact hs.of_status_eq rfl rfl rfl rfl rfl nofun
  | hostTake n => exact hostTake_keeps_blockInv hs h
  | readReg n =>
    cases h
    exact hs.of_status_eq rfl rfl rfl rfl rfl nofun
  | reset =>
    have hr := perform_reset_isResetState h
    cases h
    exact blockInv_of_isResetState hr hs.cfgLegal

/-- The invariant says nothing of the host's pending actions. -/
theorem BlockInv.with_port {s : State} (hs : BlockInv s) (port : List HostAction) : BlockInv { s with port := port } :=
  ⟨hs.cfgLegal, hs.codeLegal, hs.errShowsCode, hs.captureEmpty, hs.rejectedIsBad, hs.framingCstateIsNeither,
    hs.resultAgrees⟩

/-! A step (R2, R65). -/

theorem step_of_port_eq_nil {s : State} (h : s.port = []) : step s = .next s := by
  simp only [step, runPort, h]

theorem step_of_port_eq_cons {s : State} {a : HostAction} {rest : List HostAction} (h : s.port = a :: rest) :
    step s = perform a { s with port := rest } := by
  simp only [step, runPort, h]

end Sys2Proof.Machine

namespace Sys2Proof.Proofs

open Sys2Proof Sys2Proof.Machine

/-- Settles O43: a step waits or performs an action, and every action keeps the invariant. -/
theorem stepKeepsBlockInv : Obligations.StepKeepsBlockInv := by
  intro s t hs h
  cases hport : s.port with
  | nil =>
    rw [step_of_port_eq_nil hport] at h
    cases h
    exact hs
  | cons a rest =>
    rw [step_of_port_eq_cons hport] at h
    exact perform_keeps_blockInv (hs.with_port rest) h

/-- Settles O44: the start state is a reset state, under a configuration that is legal. -/
theorem resetHasBlockInv : Obligations.ResetHasBlockInv :=
  blockInv_of_isResetState reset_isResetState Config.built.legal

/-- Settles O42, from how every command completes. -/
theorem everyCommandFinishesWithListedCode : Obligations.EveryCommandFinishesWithListedCode := by
  intro i s
  obtain ⟨u, hu, hc⟩ := exec_completes i s
  obtain ⟨out, hf⟩ := hc.finished
  obtain ⟨hcfg, hport, _⟩ := hc.frameBut
  exact ⟨u, out, hu, hc.code_legal, hf, hcfg, hport⟩

/-- Settles O46, part by part, from the parts a command writes before it finishes. -/
theorem commandsWriteOnlyTheirParts : Obligations.CommandsWriteOnlyTheirParts :=
  fun i _ _ h =>
    ⟨part_same_of_not_written h (seqCnt_mem_writtenParts i), part_same_of_not_written h (crcAcc_mem_writtenParts i),
      part_same_of_not_written h (capture_mem_writtenParts i), part_same_of_not_written h (tx_mem_writtenParts i),
      part_same_of_not_written h (rx_mem_writtenParts i)⟩

/-- Settles O47: the effect of such a command is the same, and in CRC_ACC it leaves what it writes. -/
theorem crcAccIsPrivate : Obligations.CrcAccIsPrivate := by
  intro i s u v hr h
  rw [exec_eq_run, effect_with_crcAcc hr, eq_run_of_exec h, ← effect_run_crcAcc hr]
  rfl

/-- Settles O48: the effect of such a command is the same, and in CNT it leaves what it writes. -/
theorem counterIsNeverReadByOthers : Obligations.CounterIsNeverReadByOthers := by
  intro i s u v hr h
  rw [exec_eq_run, effect_with_seqCnt hr, eq_run_of_exec h, ← effect_run_seqCnt hr]
  rfl

/-- Settles O49: an effect does not depend on TX, and what it sends is the command's frame or nothing. -/
theorem txIsAppendedWholeAndNeverRead : Obligations.TxIsAppendedWholeAndNeverRead := by
  intro i s u h
  have hsent : (if u.code = 0x00 then emittedFrame i s else []) = (effect i s).sent := by
    simp only [eq_run_of_exec h, Effect.run_code, Status.byte_eq_zero, effect_sent]
  rw [hsent]
  refine ⟨?tx, fun hi => effect_sent_of_not_encoder hi s, fun x => ?other⟩
  case tx => rw [eq_run_of_exec h, Effect.run_tx]
  case other =>
    rw [exec_eq_run, effect_with_tx, eq_run_of_exec h]
    rfl

/-- Settles O50: on an error an effect writes no counter and sends nothing; the rest is what every command keeps. -/
theorem errorsArePrecise : Obligations.ErrorsArePrecise := by
  intro i s u h hcode
  have hu := eq_run_of_exec h
  have herr : (effect i s).status ≠ .ok := fun hok => hcode (by rw [hu, Effect.run_code, hok]; rfl)
  obtain ⟨hcnt, hacc⟩ := effect_keepsCounters_of_error herr
  refine ⟨?cnt, ?acc, ?tx, ⟨(effect i s).taken, ?rx⟩, part_same_of_not_written h (rx_mem_writtenParts i),
    part_same_of_not_written h (capture_mem_writtenParts i)⟩
  case cnt => rw [hu, Effect.run_seqCnt, hcnt, Option.getD_none]
  case acc => rw [hu, Effect.run_crcAcc, hacc, Option.getD_none]
  case tx => rw [hu, Effect.run_tx, effect_sent, if_neg herr, List.append_nil]
  case rx => rw [hu, Effect.run_rx]

/-- Settles O41: the port's head decides what a step does. -/
theorem stepPerformsNextAction : Obligations.StepPerformsNextAction :=
  ⟨fun _ => step_of_port_eq_nil, fun _ _ _ => step_of_port_eq_cons⟩

/-- Settles O40: the action at the head is a command message, which runs what it decodes to. -/
theorem stepRunsDecodedCommand : Obligations.StepRunsDecodedCommand := by
  intro s msg rest i hport hdecode
  rw [step_of_port_eq_cons hport, perform, runMessage, hdecode]

end Sys2Proof.Proofs
end

section
/-! Commands issued one after another: each leaves the state its effect says. From this, the incremental checksum (R127), the
counter's wrap (R22, R144), and ENC_REQ_NEXT as two commands (R165). -/

namespace Sys2Proof.Machine

theorem issue_of_exec {i : Instr} {s u : State} (h : exec i s = .next u) : issue i s = u := by
  rw [issue, h, stateAfter]

theorem issue_eq_run (i : Instr) (s : State) : issue i s = (effect i s).run s := issue_of_exec (exec_eq_run i s)

/-- The outputs of a command are those of its effect. -/
theorem lastOutputs_issue (i : Instr) (s : State) : lastOutputs (issue i s) = (effect i s).outputs := by
  rw [issue_eq_run, lastOutputs, Effect.run_reply]

theorem runCommands_nil (s : State) : runCommands [] s = s := rfl

theorem runCommands_cons (i : Instr) (is : List Instr) (s : State) :
    runCommands (i :: is) s = runCommands is (issue i s) := rfl

theorem runCommands_append (is js : List Instr) (s : State) :
    runCommands (is ++ js) s = runCommands js (runCommands is s) := List.foldl_append

/-! CRC_UPDATE (R123, R127). -/

/-- One CRC_UPDATE per byte steps CRC_ACC through the string. -/
theorem runCommands_crcUpdate (d : List Byte) (s : State) :
    (runCommands (d.map .crcUpdate) s).cfg = s.cfg ∧
      (runCommands (d.map .crcUpdate) s).crcAcc = d.foldl (crcStep s.cfg) s.crcAcc := by
  induction d generalizing s with
  | nil => exact ⟨rfl, rfl⟩
  | cons b d ih =>
    rw [List.map_cons, runCommands_cons, issue_eq_run]
    exact ih _

/-- CRC_CLEAR, the bytes one by one, and CRC_FINAL output the string's checksum (R127). -/
theorem lastOutputs_incrementalCrc (d : List Byte) (s : State) :
    lastOutputs (runCommands ([.crcClear] ++ d.map .crcUpdate ++ [.crcFinal]) s) = .checksum (crc16 s.cfg d) := by
  have hclear : (issue .crcClear s).cfg = s.cfg ∧ (issue .crcClear s).crcAcc = s.cfg.crcInit := ⟨rfl, rfl⟩
  obtain ⟨hcfg, hacc⟩ := runCommands_crcUpdate d (issue .crcClear s)
  rw [runCommands_append, runCommands_append, runCommands_cons, runCommands_nil, runCommands_cons, runCommands_nil,
    lastOutputs_issue, effect, hcfg, hacc, hclear.1, hclear.2, crc16]

/-- CRC_COMPUTE of a string no longer than a frame (R125). -/
theorem lastOutputs_crcCompute {d : List Byte} (h : d.length ≤ 1031) (s : State) :
    lastOutputs (issue (.crcCompute d) s) = .checksum (crc16 s.cfg d) := by
  rw [lastOutputs_issue, effect, if_neg (Nat.not_lt.mpr h)]

/-! SEQ_NEXT (R22, R143, R144). -/

theorem issue_seqNext_seqCnt (s : State) : (issue .seqNext s).seqCnt = s.seqCnt + 1 := rfl

theorem add_one_add_ofNat (cnt : Byte) (k : Nat) : cnt + 1 + BitVec.ofNat 8 k = cnt + BitVec.ofNat 8 (k + 1) := by
  rw [BitVec.add_assoc, Nat.add_comm k 1, BitVec.ofNat_add]
  rfl

/-- n SEQ_NEXT commands advance the counter by n, modulo 256. -/
theorem runCommands_seqNext_seqCnt (n : Nat) (s : State) :
    (runCommands (List.replicate n .seqNext) s).seqCnt = s.seqCnt + BitVec.ofNat 8 n := by
  induction n generalizing s with
  | zero => simp [runCommands_nil]
  | succ n ih =>
    rw [List.replicate_succ, runCommands_cons, ih, issue_seqNext_seqCnt, add_one_add_ofNat]

/-- n SEQ_NEXT commands output the n counter values from CNT on. -/
theorem commandOutputs_seqNext (n : Nat) (s : State) :
    commandOutputs (List.replicate n .seqNext) s =
      (List.range n).map (fun k => counterOutputs (s.seqCnt + BitVec.ofNat 8 k)) := by
  induction n generalizing s with
  | zero => rfl
  | succ n ih =>
    have hfirst : lastOutputs (issue .seqNext s) = counterOutputs (s.seqCnt + BitVec.ofNat 8 0) := by
      rw [lastOutputs_issue, effect, BitVec.add_zero]
    rw [List.replicate_succ, commandOutputs, ih, issue_seqNext_seqCnt, List.range_succ_eq_map, List.map_cons, hfirst,
      List.map_map]
    simp only [add_one_add_ofNat, Function.comp_def, Nat.succ_eq_add_one]

/-- 256 counter values in a row are pairwise distinct. -/
theorem counterValues_nodup (cnt : Byte) : ((List.range 256).map (fun k => cnt + BitVec.ofNat 8 k)).Nodup := by
  refine List.nodup_range.map_on fun j hj k hk h => ?_
  rw [List.mem_range] at hj hk
  have hjk := congrArg BitVec.toNat ((BitVec.add_right_inj cnt).mp h)
  rw [BitVec.toNat_ofNat, BitVec.toNat_ofNat] at hjk
  omega

/-! ENC_REQ_NEXT (R165). -/

/-- What passes the check of the request encoders (R161, R164). -/
theorem reqCheck_eq_ok_iff {c : Cfg} {t : Byte} {p : List Byte} :
    reqCheck c t p = .ok ↔
      (kindOf c t).isSome ∧ p.length ≤ 1024 ∧ (kindOf c t = some .data → p.length = 1024) := by
  rw [reqCheck_eq_ite]
  cases kindOf c t with
  | none => simp
  | some k =>
    simp only [reduceCtorEq, if_false, Option.some.injEq, Option.isSome_some, true_and]
    split_ifs with hlong hblock
    · rw [false_iff]; omega
    · rw [false_iff]
      exact fun ⟨_, h⟩ => hblock.2 (h hblock.1)
    · simp only [true_iff]
      exact ⟨Nat.not_lt.mp hlong, fun hk => by_contra fun hne => hblock ⟨hk, hne⟩⟩

/-- When the check passes, ENC_REQ_NEXT leaves what SEQ_NEXT and ENC_REQ leave, apart from the result record. -/
theorem issue_encReqNext_eq_seqNext_encReq {t : Byte} {p : List Byte} {s : State} (h : reqCheck s.cfg t p = .ok) :
    { issue (.encReqNext t p) s with reply := .nothing } =
      { issue (.encReq t (seq16 s.seqCnt) p) (issue .seqNext s) with reply := .nothing } := by
  have h' : reqCheck (issue .seqNext s).cfg t p = .ok := h
  have hone : exec (.encReqNext t p) s = _ := execEncReqNext_ok h
  have htwo : exec (.encReq t (seq16 s.seqCnt) p) (issue .seqNext s) = _ := execEncReq_ok h'
  rw [issue_of_exec hone, issue_of_exec htwo]
  rfl

/-- When it fails, ENC_REQ_NEXT leaves the counter, and SEQ_NEXT has advanced it. -/
theorem issue_encReqNext_seqCnt_of_error {t : Byte} {p : List Byte} {s : State} (h : reqCheck s.cfg t p ≠ .ok) :
    (issue (.encReqNext t p) s).seqCnt = s.seqCnt := by
  have hone : exec (.encReqNext t p) s = _ := execEncReqNext_err _ rfl h
  rw [issue_of_exec hone, finish_seqCnt]

/-- ENC_REQ leaves the counter (R162). -/
theorem issue_encReq_seqCnt (t : Byte) (sq : Half) (p : List Byte) (s : State) :
    (issue (.encReq t sq p) s).seqCnt = s.seqCnt :=
  part_same_of_not_written (i := .encReq t sq p) (by rw [issue_eq_run, exec_eq_run]) (seqCnt_mem_writtenParts _) rfl

end Sys2Proof.Machine

namespace Sys2Proof.Proofs

open Sys2Proof Sys2Proof.Machine

/-- Settles O8, by the induction over the bytes. -/
theorem incrementalCrcAgreesWithWhole : Obligations.IncrementalCrcAgreesWithWhole :=
  fun s d => ⟨lastOutputs_incrementalCrc d s, fun h => lastOutputs_crcCompute h s⟩

/-- Settles O14, by the inductions over the number of commands. -/
theorem seqNextWrapsAfter256 : Obligations.SeqNextWrapsAfter256 := by
  have hwrap (s : State) : (runCommands (List.replicate 256 .seqNext) s).seqCnt = s.seqCnt := by
    rw [runCommands_seqNext_seqCnt]
    exact BitVec.add_zero _
  refine ⟨fun s => ⟨commandOutputs_seqNext 256 s, counterValues_nodup s.seqCnt, hwrap s⟩, fun s => ?_⟩
  rw [runCommands_cons, hwrap]
  rfl

/-- Settles O15: the distance to the value is the number of commands. -/
theorem seqNextReachesEveryValue : Obligations.SeqNextReachesEveryValue := by
  intro s v
  refine ⟨(v - s.seqCnt).toNat, by omega, ?_⟩
  rw [runCommands_seqNext_seqCnt, BitVec.ofNat_toNat, BitVec.setWidth_eq, BitVec.add_comm, BitVec.sub_add_cancel]

/-- Settles O19, by whether the check of R161 passes. -/
theorem encReqNextIsSeqNextThenEncReq : Obligations.EncReqNextIsSeqNextThenEncReq := by
  intro s t p one two
  split_ifs with h
  · exact issue_encReqNext_eq_seqNext_encReq (reqCheck_eq_ok_iff.mpr h)
  · exact ⟨issue_encReqNext_seqCnt_of_error (mt reqCheck_eq_ok_iff.mp h),
      issue_encReq_seqCnt t (seq16 s.seqCnt) p (issue .seqNext s)⟩

end Sys2Proof.Proofs
end

section
/-! The CRC engine's table form (R128), CRC_UPDATE (R123), and its corner-case remark (log 16). -/

namespace Sys2Proof.Machine

/-- The low byte of a register, the high byte clear. -/
def lowByte (v : Half) : Half := (v.setWidth 8).setWidth 16

theorem lowByte_getLsbD (v : Half) (i : Nat) : (lowByte v).getLsbD i = (decide (i < 8) && v.getLsbD i) := by
  by_cases h : i < 8
  · have h16 : i < 16 := by omega
    simp [lowByte, h, h16]
  · simp [lowByte, h]

/-- A register with a byte XORed into its high byte, as its low byte and the rest. -/
theorem xor_highByte_eq (v : Half) (x : Byte) :
    v ^^^ (x.setWidth 16 <<< 8) = lowByte v ^^^ (((v >>> 8).setWidth 8 ^^^ x).setWidth 16 <<< 8) := by
  apply BitVec.eq_of_getLsbD_eq
  intro i hi
  rw [BitVec.getLsbD_xor, BitVec.getLsbD_xor, lowByte_getLsbD]
  by_cases h : i < 8
  · simp [h]
  · have h8 : i - 8 < 8 := by omega
    have hsum : 8 + (i - 8) = i := by omega
    simp [h, hi, h8, hsum]

/-- Eight shifts of the low byte move it to the high byte. -/
theorem crcShifts_lowByte (c : Cfg) (v : Half) : crcShifts c 8 (lowByte v) = v <<< 8 := by
  have hlow : (lowByte v).toNat < 2 ^ 8 := by
    rw [lowByte, BitVec.toNat_setWidth]
    exact Nat.lt_of_le_of_lt (Nat.mod_le _ _) (v.setWidth 8).isLt
  rw [crcShifts_of_clear c 8 _ hlow (by decide)]
  apply BitVec.eq_of_getLsbD_eq
  intro i hi
  have h8 : i - 8 < 8 := by omega
  simp only [BitVec.getLsbD_shiftLeft, lowByte_getLsbD, h8, decide_true, Bool.true_and]

/-- Under EX a zero byte leaves this accumulator as it is. -/
theorem crcStep_ex_fixedPoint : crcStep Cfg.ex 0xF01F 0x00 = 0xF01F := by decide

/-- The block under EX with that accumulator. -/
def fixedPointState : State := setCrcAcc 0xF01F (State.resetWith Cfg.ex)

end Sys2Proof.Machine

namespace Sys2Proof.Proofs

open Sys2Proof Sys2Proof.Machine

/-- Settles O3: CRC_UPDATE writes CRC_ACC and finishes. -/
theorem crcUpdateStepsAccumulator : Obligations.CrcUpdateStepsAccumulator := by
  intro b
  refine ⟨rfl, fun s => ⟨finish .ok .absent (setCrcAcc (crcStep s.cfg s.crcAcc b) s), rfl, ?finished, ?acc, ?frame⟩⟩
  case finished => exact finish_finished .ok .absent s _ (setCrcAcc_err _ s)
  case acc => rw [finish_crcAcc, setCrcAcc_crcAcc]
  case frame => exact frameBut_finish _ .ok .absent s _ (frameBut_setCrcAcc _ s)

/-- Refutes O4: under EX, CRC_UPDATE 0x00 leaves the accumulator 0xF01F. -/
theorem not_crcUpdateZeroChangesNonzeroAcc : ¬ Obligations.CrcUpdateZeroChangesNonzeroAcc := by
  intro h
  have hexec : exec (.crcUpdate 0x00) fixedPointState =
      .next (finish .ok .absent (setCrcAcc (crcStep Cfg.ex 0xF01F 0x00) fixedPointState)) := rfl
  refine h fixedPointState _ (by decide) (by decide) hexec ?_
  rw [finish_crcAcc, setCrcAcc_crcAcc, crcStep_ex_fixedPoint, fixedPointState, setCrcAcc_crcAcc]

/-- Settles O9: the engine is linear, so the low byte and the table's index are shifted apart. -/
theorem crcTableFormAgrees : Obligations.CrcTableFormAgrees := by
  intro c v b table x
  calc crcStep c v b
      = crcShifts c 8 (lowByte v ^^^ (((v >>> 8).setWidth 8 ^^^ x).setWidth 16 <<< 8)) := by
        rw [← xor_highByte_eq]
        rfl
    _ = (v <<< 8) ^^^ table ((v >>> 8).setWidth 8 ^^^ x) := by rw [crcShifts_xor, crcShifts_lowByte]

/-- Settles O16: the complement of a value below 256 has the high byte set, and no bit of it borrows. -/
theorem complementOfCounterValue : Obligations.ComplementOfCounterValue := by
  intro c
  have hnot : cmp16 (seq16 c) = ~~~(c.setWidth 16) := cmp16_eq_not _
  refine ⟨?_, hnot⟩
  have hc := c.isLt
  apply BitVec.eq_of_toNat_eq
  have hlow : (255 - c.setWidth 16 : Half).toNat = 255 - c.toNat := by bv_omega
  have hor : 0xFF00 ||| (255 - c.toNat) = 0xFF00 + (255 - c.toNat) :=
    (Nat.shiftLeft_add_eq_or_of_lt (i := 8) (by omega) 0xFF).symm
  rw [hnot, BitVec.toNat_or, hlow]
  refine Eq.trans ?_ hor.symm
  bv_omega

end Sys2Proof.Proofs
end

section
/-! Command messages: decoding undoes encoding (R80 to R85). -/

namespace Sys2Proof

/-- The decoder gives back every well-formed command from its message: the code byte finds the command's row, and the row's
operands are taken from the bytes that wrote them (R80, R82, R83). -/
theorem decode_encode {i : Instr} (hw : i.wf = true) : decode (encode i) = .ok i := by
  obtain ⟨r, hrow, hfit, hbuild⟩ := rowOf_code i
  have htake := takeOperands_bytes r.format i.operands [] hfit hw
  rw [List.append_nil] at htake
  simp only [encode, decode, hrow, htake, hbuild, List.isEmpty_nil, if_true]

end Sys2Proof

namespace Sys2Proof.Proofs

open Sys2Proof Sys2Proof.Machine

/-- Settles O35. -/
theorem decodeRecoversEncodedCommand : Obligations.DecodeRecoversEncodedCommand := fun _ => decode_encode

/-- Settles O36: the message is the command's, whose length is its operands'. -/
theorem decodedMessageIsItsCommandsMessage : Obligations.DecodedMessageIsItsCommandsMessage := by
  intro msg i h
  obtain ⟨hwf, henc⟩ := encode_of_decode_eq_ok h
  have hlen : (encode i).length = 1 + (i.operands.map Operand.size).sum := Laws.encode_length i
  exact ⟨hwf, henc, henc ▸ hlen⟩

/-- Settles O39: the byte strings are the messages of these well-formed commands. -/
theorem sampleMessagesDecode : Obligations.SampleMessagesDecode :=
  ⟨decode_encode (i := .crcUpdate 0x31) rfl, decode_encode (i := .crcCheck [0x31, 0x32] 0x31C3) rfl,
    decode_encode (i := .seqCheck 0x1234 0xEDCB) rfl, decode_encode (i := .encReq 0x01 0x1234 [0xC8]) rfl,
    decode_encode (i := .encRspData 0x05 [0x10, 0x20] 0xAA) rfl, decode_encode (i := .decReq 0x0401) rfl⟩

end Sys2Proof.Proofs
end

section
/-! The encoders against the decoders: what a request encoder puts into TX (R163), what DEC_REQ and DEC_RSP make of a frame
that an encoder emitted (R193, R194), a corrupted sequence field (R191), and payload bytes that are ignored (R100). -/

namespace Sys2Proof.Machine

/-! The request encoders (R161, R163, R164). -/

/-- What a command that finished 0x00 has left in TX. -/
theorem tx_of_exec_ok {i : Instr} {s u : State} (h : exec i s = .next u) (hcode : u.code = 0x00) :
    u.tx = s.tx ++ emittedFrame i s := by
  rw [eq_run_of_exec h] at hcode ⊢
  rw [Effect.run_tx, effect_sent, if_pos (Status.byte_eq_zero.mp hcode)]

/-- A command behind a check that finished 0x00 has passed it. -/
theorem check_of_run_code {check : Status} {e : Effect} {s : State} (h : ((Effect.after check e).run s).code = 0x00) :
    check = .ok := by
  by_contra hne
  rw [Effect.run_code, Effect.after, if_neg hne] at h
  exact hne (Status.byte_eq_zero.mp h)

theorem reqCheck_of_encReq_ok {t : Byte} {sq : Half} {p : List Byte} {s u : State}
    (h : exec (.encReq t sq p) s = .next u) (hcode : u.code = 0x00) : reqCheck s.cfg t p = .ok := by
  rw [eq_run_of_exec h] at hcode
  exact check_of_run_code hcode

theorem reqCheck_of_encReqNext_ok {t : Byte} {p : List Byte} {s u : State}
    (h : exec (.encReqNext t p) s = .next u) (hcode : u.code = 0x00) : reqCheck s.cfg t p = .ok := by
  rw [eq_run_of_exec h] at hcode
  exact check_of_run_code hcode

theorem rspCheck_of_encRspData_ok {t : Byte} {p : List Byte} {cs : Byte} {s u : State}
    (h : exec (.encRspData t p cs) s = .next u) (hcode : u.code = 0x00) : rspCheck s.cfg t p = .ok := by
  rw [eq_run_of_exec h] at hcode
  exact check_of_run_code hcode

/-- What passes the check of ENC_RSP_DATA has a kind with the data form, of the payload's length (R167). -/
theorem form_of_rspCheck_ok {c : Cfg} {t : Byte} {p : List Byte} (h : rspCheck c t p = .ok) :
    ∃ k, kindOf c t = some k ∧ rspForm k = .dataForm p.length := by
  rcases rspCheck_cases c t p with ⟨_, h'⟩ | ⟨k, hkind, ⟨_, h'⟩ | ⟨n, hform, ⟨_, h'⟩ | ⟨hlen, _⟩⟩⟩
  · cases h.symm.trans h'
  · cases h.symm.trans h'
  · cases h.symm.trans h'
  · exact ⟨k, hkind, hlen ▸ hform⟩

/-! DEC_REQ on a whole frame (R190 to R193). -/

/-- DEC_REQ on a frame of the length its operand asks for, whatever follows it. -/
theorem exec_decReq_of_frame {m : Half} {s : State} {f rest : List Byte} (hmax : m.toNat ≤ 1024)
    (hlen : f.length = 7 + m.toNat) (hrx : s.rx = f ++ rest) :
    exec (.decReq m) s =
      .next (finish (reqVerdict s.cfg (reqFields s.cfg m.toNat f)) (reqFields s.cfg m.toNat f).outputs
        (dropRx f.length s)) := by
  have hframe : m.toNat + 7 = f.length := by omega
  rcases execDecReq_cases m s with ⟨hlong, _⟩ | ⟨_, hshort, _⟩ | ⟨_, _, h⟩
  · exact absurd hlong (Nat.not_lt.mpr hmax)
  · rw [hrx, List.length_append] at hshort
    omega
  · rw [hrx, hframe, List.take_left] at h
    exact h

/-- The fields DEC_REQ reads from a request frame are the ones it was made of. -/
theorem reqFields_reqFrame (c : Cfg) (t : Byte) (sq : Half) (p : List Byte) :
    reqFields c p.length (reqFrame c t sq p) =
      { type := t, sq := sq, cmp := ~~~sq, payload := p, checksum := crc16 c (reqBody c t sq p),
        covered := reqBody c t sq p } := by
  rw [reqFields, byteAt_reqFrame_zero, slice_reqFrame_seq, slice_reqFrame_complement, slice_reqFrame_payload,
    slice_reqFrame_checksum, slice_reqFrame_covered, de16_ser16, de16_ser16, de16_ser16]

/-- Such fields pass every check when the type is a request type. -/
theorem reqVerdict_reqFrame {c : Cfg} {t : Byte} (ht : isReq c t = true) (sq : Half) (p : List Byte) :
    reqVerdict c (reqFields c p.length (reqFrame c t sq p)) = .ok := by
  simp [reqFields_reqFrame, reqVerdict, ht, cmp16_eq_not]

/-- DEC_REQ accepts a request frame in RX, outputs what it was made of, and empties RX. -/
theorem exec_decReq_reqFrame {t : Byte} {sq : Half} {p : List Byte} {s : State} (ht : isReq s.cfg t = true)
    (hp : p.length ≤ 1024) (hrx : s.rx = reqFrame s.cfg t sq p) :
    exec (.decReq (BitVec.ofNat 16 p.length)) s =
      .next (finish .ok (.request t sq (~~~sq) p (crc16 s.cfg (reqBody s.cfg t sq p))) (drain s)) := by
  have hm : (BitVec.ofNat 16 p.length).toNat = p.length := by
    rw [BitVec.toNat_ofNat]
    omega
  have hframe := exec_decReq_of_frame (m := BitVec.ofNat 16 p.length) (f := reqFrame s.cfg t sq p) (rest := [])
    (hm.symm ▸ hp) (by rw [hm, reqFrame_length]) (by rw [hrx, List.append_nil])
  rw [hm, reqVerdict_reqFrame ht, reqFields_reqFrame, ← hrx, dropRx_rx_length] at hframe
  exact hframe

/-- A frame that has the type of a request, but whose sequence number and complement do not belong together (R191). -/
theorem reqVerdict_of_complement_ne {c : Cfg} {r : ReqFields} (ht : isReq c r.type = true) (h : r.cmp ≠ ~~~r.sq) :
    reqVerdict c r = .complementMismatch := by
  rw [reqVerdict, if_neg (by simp [ht]), if_pos (by rwa [cmp16_eq_not])]

/-- A frame that differs from a valid one in exactly one of the two sequence fields breaks the complement relation. -/
theorem complement_ne_of_corrupted {c : Cfg} {n : Nat} {f g : List Byte} {at1 : Nat} (hf : ValidRequest c n f)
    (hat : at1 = 1 ∨ at1 = 3) (hlen : g.length = f.length)
    (hsame : ∀ i, i ≠ at1 → i ≠ at1 + 1 → byteAt g i = byteAt f i)
    (hdiff : slice g at1 (at1 + 1) ≠ slice f at1 (at1 + 1)) :
    de16 (slice g 3 4) c.seqOrder ≠ ~~~(de16 (slice g 1 2) c.seqOrder) := by
  obtain ⟨hflen, _, hcmp, _⟩ := hf
  have hfield (j : Nat) (hj : j < f.length) (h : slice g j (j + 1) ≠ slice f j (j + 1)) (hj' : j + 1 < f.length) :
      de16 (slice g j (j + 1)) c.seqOrder ≠ de16 (slice f j (j + 1)) c.seqOrder := by
    refine mt (de16_injective c.seqOrder ?_ ?_) h <;> rw [slice_length _ _ _ (by omega)] <;> omega
  intro hg
  rcases hat with rfl | rfl
  · have hkept : slice g 3 4 = slice f 3 4 := slice_congr hlen fun k h1 h2 => hsame k (by omega) (by omega)
    rw [hkept, hcmp, BitVec.not_inj] at hg
    exact hfield 1 (by omega) hdiff (by omega) hg.symm
  · have hkept : slice g 1 2 = slice f 1 2 := slice_congr hlen fun k h1 h2 => hsame k (by omega) (by omega)
    rw [hkept, ← hcmp] at hg
    exact hfield 3 (by omega) hdiff (by omega) hg

/-! DEC_RSP on a reply that an encoder emitted (R194). -/

/-- The fields DEC_RSP reads from a data-form response are the ones it was made of. -/
theorem rspFields_rspData (c : Cfg) (t : Byte) (p : List Byte) (cs : Byte) :
    rspFields c p.length (rspData c t p cs) =
      { type := t ||| 0x80, payload := p, checksum := crc16 c (rspCovered c (t ||| 0x80) p), cstate := cs } := by
  rw [rspFields, byteAt_rspData_type, slice_rspData_payload, slice_rspData_checksum, byteAt_rspData_cstate, de16_ser16]
  rfl

/-- Such fields pass every check when the state byte is OK or BAD (R182). -/
theorem rspVerdict_rspData (c : Cfg) (t : Byte) (p : List Byte) {cs : Byte} (hcs : cs = 0xAA ∨ cs = 0x55) :
    rspVerdict c t (rspFields c p.length (rspData c t p cs)) = csClass cs := by
  rw [rspFields_rspData]
  rcases rspVerdict_cases c t
      { type := t ||| 0x80, payload := p, checksum := crc16 c (rspCovered c (t ||| 0x80) p), cstate := cs } with
    ⟨htype, _⟩ | ⟨_, ⟨hok, hbad⟩, _⟩ | ⟨_, _, hcrc, _⟩ | ⟨_, _, _, h⟩
  · exact absurd rfl htype
  · exact (hcs.elim hok hbad).elim
  · exact absurd rfl hcrc
  · exact h

/-- The result record of a command that finishes with a classification (R180, R32). -/
theorem finish_csClass_reply (b : Byte) (out : Outputs) (s : State) :
    (finish (csClass b) out s).reply = .result { code := csCode b, outputs := out } := by
  rw [finish_reply, csClass_byte]

/-- DEC_RSP classifies the state byte of a data-form response in RX, outputs what it was made of, and empties RX. -/
theorem exec_decRsp_rspData {t : Byte} {p : List Byte} {cs : Byte} {s : State} {k : ReqType}
    (hkind : kindOf s.cfg t = some k) (hform : rspForm k = .dataForm p.length) (hcs : cs = 0xAA ∨ cs = 0x55)
    (hrx : s.rx = rspData s.cfg t p cs) :
    exec (.decRsp t) s =
      .next (finish (csClass cs)
        (.response (t ||| 0x80) p (crc16 s.cfg (rspCovered s.cfg (t ||| 0x80) p)) cs) (captureState cs (drain s))) := by
  have hlen : p.length + 4 = s.rx.length := by rw [hrx, rspData_length]
  have hexec : exec (.decRsp t) s = execDecRsp t s := rfl
  rcases execDecRsp_cases t s with
    ⟨hkind', _⟩ | ⟨_, hkind', hform', _⟩ | ⟨_, n, hkind', hform', hshort, _⟩ | ⟨_, n, hkind', hform', _, h⟩ <;>
    cases hkind'.symm.trans hkind
  · cases hform'.symm.trans hform
  · cases hform'.symm.trans hform
    omega
  · cases hform'.symm.trans hform
    rw [hlen, List.take_length, hrx, rspVerdict_rspData s.cfg t p hcs, rspFields_rspData, ← hrx, dropRx_rx_length] at h
    rw [hexec, h]
    rfl

/-- DEC_RSP of a status-only kind classifies the one byte in RX, and empties RX. -/
theorem exec_decRsp_statusByte {t cs : Byte} {s : State} {k : ReqType} (hkind : kindOf s.cfg t = some k)
    (hform : rspForm k = .statusOnly) (hrx : s.rx = [cs]) :
    exec (.decRsp t) s = .next (finish (csClass cs) (.stateByte cs) (captureState cs (dropRx 1 s))) := by
  have hexec : exec (.decRsp t) s = execDecRsp t s := rfl
  rcases execDecRsp_cases t s with
    ⟨hkind', _⟩ | ⟨k', hkind', hform', h⟩ | ⟨k', n, hkind', hform', _⟩ | ⟨k', n, hkind', hform', _⟩ <;>
    cases hkind'.symm.trans hkind
  · rw [hexec, h, decRspStatusOnly_of_rx_eq_cons hrx]
  · cases hform'.symm.trans hform
  · cases hform'.symm.trans hform

/-! A frame handed over by the host (R55). -/

/-- With TX empty before it, an emitted frame is all that the host takes. -/
theorem hostTake_of_emitted {s : State} (htx : s.tx = []) (x : Status) (out : Outputs) (f : List Byte) :
    hostTake f.length (finish x out (emit f s)) =
      .next { finish x out (emit f s) with tx := [], reply := .taken f } :=
  hostTake_of_tx_eq_append (by rw [finish_tx, emit_tx, htx, List.nil_append, List.append_nil])

/-- With RX empty before it, a frame that the host puts back is all of RX. -/
theorem hostPut_rx_of_nil {s : State} (hrx : s.rx = []) (f : List Byte) : (hostPut f s).rx = f := by
  rw [hostPut_rx, hrx, List.nil_append]

/-! Payload bytes that are ignored (R100). -/

theorem chipInfoOutputs_congr {c : Cfg} {p q : List Byte}
    (hflags : ∀ i : Fin 8, i = c.caBit ∨ i = c.teeBit ∨ i = c.multiformBit →
      (byteAt p 0).getLsbD i = (byteAt q 0).getLsbD i)
    (hwords : ∀ i, 3 ≤ i → byteAt p i = byteAt q i) : chipInfoOutputs c p = chipInfoOutputs c q := by
  simp only [chipInfoOutputs_eq, hflags _ (.inl rfl), hflags _ (.inr (.inl rfl)), hflags _ (.inr (.inr rfl)),
    hwords 3 (by decide), hwords 4 (by decide), hwords 5 (by decide), hwords 6 (by decide), hwords 7 (by decide),
    hwords 8 (by decide), hwords 9 (by decide), hwords 10 (by decide)]

theorem boardOutputs_congr {c : Cfg} {p q : List Byte} (hwords : ∀ i, 3 ≤ i → byteAt p i = byteAt q i) :
    boardOutputs c p = boardOutputs c q := by
  simp only [boardOutputs_eq, hwords 3 (by decide), hwords 4 (by decide), hwords 5 (by decide), hwords 6 (by decide)]

end Sys2Proof.Machine

namespace Sys2Proof.Proofs

open Sys2Proof Sys2Proof.Machine

/-- Settles O29: the frame is handed over whole, and DEC_REQ reads it back field by field. -/
theorem requestRoundTrip : Obligations.RequestRoundTrip := by
  intro s s1 t sq p htx hrx h hcode
  have hcheck := reqCheck_of_encReq_ok h hcode
  obtain ⟨hkind, hp, _⟩ := reqCheck_eq_ok_iff.mp hcheck
  obtain rfl := Host.Outcome.next.inj ((execEncReq_ok hcheck).symm.trans h)
  have htake := hostTake_of_emitted htx .ok (.frameLen (lenOutput (reqFrame s.cfg t sq p))) (reqFrame s.cfg t sq p)
  rw [reqFrame_length] at htake
  exact ⟨_, _, _, _, htake, rfl, rfl, exec_decReq_reqFrame (sq := sq) hkind hp (hostPut_rx_of_nil hrx _), rfl, rfl, rfl⟩

/-- Settles O30: the reply is handed over whole, and DEC_RSP reads it back, in either form. -/
theorem responseRoundTrip : Obligations.ResponseRoundTrip := by
  refine ⟨fun s s1 t p cs htx hrx hcs h hcode => ?data, fun s s1 t k cs htx hrx hkind hform h => ?status⟩
  case data =>
    have hcheck := rspCheck_of_encRspData_ok h hcode
    obtain ⟨k, hkind, hform⟩ := form_of_rspCheck_ok hcheck
    obtain rfl := Host.Outcome.next.inj ((execEncRspData_ok hcheck).symm.trans h)
    have htake := hostTake_of_emitted htx .ok (.frameLen (lenOutput (rspData s.cfg t p cs))) (rspData s.cfg t p cs)
    rw [rspData_length] at htake
    exact ⟨_, _, _, _, htake, rfl, exec_decRsp_rspData (cs := cs) hkind hform hcs (hostPut_rx_of_nil hrx _),
      finish_csClass_reply cs _ _, ⟨rfl, rfl⟩, rfl⟩
  case status =>
    obtain rfl := Host.Outcome.next.inj h
    have htake := hostTake_of_emitted htx .ok (.frameLen (lenOutput (rspStatus cs))) (rspStatus cs)
    have hput := hostPut_rx_of_nil hrx (rspStatus cs)
    exact ⟨_, _, _, htake, rfl, exec_decRsp_statusByte (cs := cs) hkind hform hput, finish_csClass_reply cs _ _,
      ⟨rfl, rfl⟩, congrArg (List.drop 1) hput⟩

/-- Settles O20: a request encoder that finishes 0x00 has passed the check and sent its frame. -/
theorem requestEncodersGrowTx : Obligations.RequestEncodersGrowTx := by
  intro s u t sq p h hcode
  have hcheck : reqCheck s.cfg t p = .ok := h.elim (reqCheck_of_encReq_ok · hcode) (reqCheck_of_encReqNext_ok · hcode)
  obtain ⟨_, _, hdata⟩ := reqCheck_eq_ok_iff.mp hcheck
  have hlen : u.tx.length = s.tx.length + (7 + p.length) := by
    rcases h with h | h <;>
      rw [tx_of_exec_ok h hcode, emittedFrame, List.length_append, reqFrame_length]
  exact ⟨hlen, fun hk => by rw [hlen, hdata hk]⟩

/-- Settles O28: the frame keeps its type, and its complement check fails before its checksum is looked at. -/
theorem sequenceCorruptionIsCaught : Obligations.SequenceCorruptionIsCaught := by
  intro s m f g rest at1 hmax hf hat hlen hsame hdiff hrx
  have hne := complement_ne_of_corrupted hf hat hlen hsame hdiff
  obtain ⟨hflen, htype, _⟩ := hf
  refine ⟨_, exec_decReq_of_frame hmax (hlen.trans hflen) hrx, ?_⟩
  have htype' : isReq s.cfg (byteAt g 0) = true := by rwa [hsame 0 (by omega) (by omega)]
  rw [finish_code, reqVerdict_of_complement_ne htype' hne]
  rfl

/-- Settles O34: the payload decoders read the flag bits and the bytes from 3 on, and the lengths agree. -/
theorem reservedFieldsAreIgnored : Obligations.ReservedFieldsAreIgnored := by
  refine ⟨fun s p q hp hq hflags hwords => ?chipInfo, fun s p q hp hq hwords => ?board⟩
  case chipInfo => rw [exec_eq_run, exec_eq_run, effect, effect, hp, hq, chipInfoOutputs_congr hflags hwords]
  case board => rw [exec_eq_run, exec_eq_run, effect, effect, hp, hq, boardOutputs_congr hwords]

/-- Settles O31: CS_CLASSIFY captures its operand and finishes with its classification. -/
theorem csClassifyCapturesOperand : Obligations.CsClassifyCapturesOperand := by
  refine fun b => ⟨rfl, fun s => ⟨finish (csClass b) .absent (captureState b s), rfl, ?finished, ⟨rfl, rfl⟩, ?frame⟩⟩
  case finished => exact finish_finished_code (csClass_byte b) s _ rfl
  case frame => exact frameBut_finish _ _ .absent s _ (frameBut_captureState b s)

/-- Settles O53: the take is out of range. -/
theorem hostTakeBeyondTxStops : Obligations.HostTakeBeyondTxStops :=
  fun _ _ h => if_neg (Nat.not_le.mpr h)

end Sys2Proof.Proofs
end

section
/-! Configurations and launches: the check of R6 as the conditions it stands for, what a legal configuration's type codes name
(R14, R91), and which launches are refused (R68, I16). -/

namespace Sys2Proof.Machine

theorem typeCodesDistinct_iff {c : Cfg} : c.typeCodesDistinct = true ↔ Function.Injective c.typeCode := by
  have hall : ReqType.all.Nodup := by decide
  rw [Cfg.typeCodesDistinct, decide_eq_true_eq]
  constructor
  · exact fun h j k hjk => List.inj_on_of_nodup_map h (ReqType.mem_all j) (ReqType.mem_all k) hjk
  · exact fun h => hall.map h

theorem typeCodesBit7Clear_iff {c : Cfg} : c.typeCodesBit7Clear = true ↔ ∀ k, (c.typeCode k).getLsbD 7 = false := by
  rw [Cfg.typeCodesBit7Clear, List.all_eq_true]
  simp only [Bool.not_eq_true', ReqType.mem_all, true_implies]

theorem flagBitsDistinct_iff {c : Cfg} :
    c.flagBitsDistinct = true ↔ c.caBit ≠ c.teeBit ∧ c.caBit ≠ c.multiformBit ∧ c.teeBit ≠ c.multiformBit := by
  simp [Cfg.flagBitsDistinct, and_assoc]

/-- The constraints of R6, one by one. -/
theorem cfg_wf_iff {c : Cfg} :
    c.wf = true ↔ Function.Injective c.typeCode ∧ (∀ k, (c.typeCode k).getLsbD 7 = false) ∧
      c.caBit ≠ c.teeBit ∧ c.caBit ≠ c.multiformBit ∧ c.teeBit ≠ c.multiformBit := by
  rw [Cfg.wf, Bool.and_eq_true, Bool.and_eq_true, typeCodesDistinct_iff, typeCodesBit7Clear_iff, flagBitsDistinct_iff,
    and_assoc]

/-- Under a legal configuration a byte is of a kind exactly when it is the kind's code (R14). -/
theorem kindOf_eq_some_iff {c : Cfg} (hw : c.wf = true) {t : Byte} {k : ReqType} :
    kindOf c t = some k ↔ t = c.typeCode k := by
  constructor
  · exact fun h => (kindOf_typeCode h).symm
  · rintro rfl
    exact kindOf_typeCode_self hw k

/-- A response type has bit 7 set (R94). -/
theorem rspType_getLsbD_seven (t : Byte) : (rspType t).getLsbD 7 = true := by
  rw [rspType, BitVec.getLsbD_or]
  exact Bool.or_true _

/-- Under a legal configuration no response type is a request type (R91, R94). -/
theorem kindOf_rspType {c : Cfg} (hw : c.wf = true) (t : Byte) : kindOf c (rspType t) = none := by
  obtain ⟨_, hbit7, _⟩ := cfg_wf_iff.mp hw
  rw [Option.eq_none_iff_forall_ne_some]
  intro k hk
  have hclear := hbit7 k
  rw [kindOf_typeCode hk, rspType_getLsbD_seven] at hclear
  cases hclear

end Sys2Proof.Machine

namespace Sys2Proof.Proofs

open Sys2Proof Sys2Proof.Machine

/-- Settles O55. -/
theorem legalConfigurationNamesKinds : Obligations.LegalConfigurationNamesKinds :=
  fun _ => ⟨cfg_wf_iff, fun hw t _ => ⟨kindOf_eq_some_iff hw, kindOf_rspType hw t⟩⟩

/-- Settles O56, by the number of hosts and the check of the configuration. -/
theorem launchRefusesIllegalStart : Obligations.LaunchRefusesIllegalStart := by
  intro hosts c
  rw [launch]
  by_cases hhosts : 1 < hosts
  · rw [if_pos hhosts, if_pos hhosts]
  · rw [if_neg hhosts, if_neg hhosts]
    cases c.wf <;> rfl

end Sys2Proof.Proofs
end

section
/-! The host at the block's boundary: the error kinds (R245), the blocks of a transfer (R214, R215), a transfer round by round
(R212, R218), and a session that ends after Query (R222). -/

namespace Sys2Proof.Machine

/-! The blocks of a transfer (R212 to R215). -/

/-- The number of DATA frames is the least that holds the data (R212). -/
theorem numBlocks_bounds (len : Nat) : len ≤ 1024 * numBlocks len ∧ 1024 * numBlocks len < len + 1024 := by
  rw [numBlocks, Config.dataBlock]
  omega

/-- The first n blocks, joined, are the bytes they hold, with zeros after the last of them. -/
theorem flatten_blocks (data : List Byte) (n : Nat) (h : 1024 * n < data.length + 1024) :
    ((List.range n).map (block data)).flatten =
      data.take (1024 * n) ++ List.replicate (1024 * n - data.length) 0x00 := by
  induction n with
  | zero => simp
  | succ n ih =>
    have hfull : 1024 * n - data.length = 0 := by omega
    have hpad : 1024 - ((data.drop (1024 * n)).take 1024).length = 1024 * (n + 1) - data.length := by
      rw [List.length_take, List.length_drop]
      omega
    rw [List.range_succ, List.map_append, List.flatten_append, ih (by omega), hfull, List.replicate_zero, List.append_nil,
      List.map_singleton, List.flatten_singleton, block, Config.dataBlock, hpad, ← List.append_assoc, Nat.mul_succ,
      List.take_add]

/-- All blocks of a transfer, joined: the data and its padding (R215). -/
theorem flatten_all_blocks (data : List Byte) :
    ((List.range (numBlocks data.length)).map (block data)).flatten =
      data ++ List.replicate (1024 * numBlocks data.length - data.length) 0x00 := by
  obtain ⟨hle, hlt⟩ := numBlocks_bounds data.length
  rw [flatten_blocks data _ hlt, List.take_of_length_le hle]

section
variable (h : HostCfg) (chip : ChipInfo) (offset : Nat) (data : List Byte)

theorem transferRequests_kinds :
    (transferRequests h chip offset data).map (·.kind) =
      .head :: (List.replicate (numBlocks data.length) .data ++ [.tail]) := by
  simp [transferRequests, Function.comp_def]

/-- The DATA requests of a transfer carry the blocks, in their order (R214). -/
theorem transferRequests_data :
    (transferRequests h chip offset data).filter (fun r => r.kind = .data) =
      (List.range (numBlocks data.length)).map fun k => { kind := .data, payload := block data k, sq := none } := by
  simp [transferRequests, List.filter_map, Function.comp_def]

end

/-! Rounds with a status-only reply, one after another (R212, R218). -/

/-- Requests the encoder takes, of kinds with a status-only reply. -/
def StatusOnlyRequests (rs : List Request) : Prop := ∀ r ∈ rs, r.Encodable ∧ rspForm r.kind = .statusOnly

/-- A round whose reply is the byte 0xAA hands over one frame and leaves the streams empty. -/
theorem hostRound_acked {r : Request} (h : r.Encodable) (hf : rspForm r.kind = .statusOnly) {s : State}
    (hw : s.cfg.wf = true) (hr : s.rx = []) :
    let e := hostRound r (.bytes [0xAA]) s
    e.sent.length = 1 ∧ e.result = .ok (.stateByte 0xAA) ∧ e.state.cfg = s.cfg ∧ e.state.rx = [] := by
  obtain ⟨hsent, hok, hcfg, _, hrx⟩ := hostRound_statusOnly h hf (.bytes [0xAA]) hw hr
  exact ⟨hsent, hok, hcfg, hrx⟩

/-- Rounds that all get the byte 0xAA send every frame (R212). -/
theorem runRounds_acked {rs : List Request} (hrs : StatusOnlyRequests rs) (later : List Arrival) {s : State}
    (hw : s.cfg.wf = true) (hr : s.rx = []) :
    let e := runRounds rs (List.replicate rs.length (.bytes [0xAA]) ++ later) s
    e.result = none ∧ e.sent.length = rs.length ∧ e.arrivals = later := by
  induction rs generalizing s with
  | nil => exact ⟨rfl, rfl, rfl⟩
  | cons r rs ih =>
    obtain ⟨⟨henc, hform⟩, hrs'⟩ := List.forall_mem_cons.mp hrs
    obtain ⟨hsent, hok, hcfg, hrx⟩ := hostRound_acked henc hform hw hr
    obtain ⟨hresult, hcount, hleft⟩ := ih hrs' (hcfg ▸ hw) hrx
    rw [List.length_cons, List.replicate_succ, List.cons_append, runRounds_cons_ok hok]
    refine ⟨hresult, ?_, hleft⟩
    rw [List.length_append]
    exact (congrArg₂ (· + ·) hsent hcount).trans (Nat.add_comm _ _)

/-- Rounds that get the byte 0xAA k times and then something else end there: k completed, and no frame sent after (R218). -/
theorem runRounds_failed {rs : List Request} (hrs : StatusOnlyRequests rs) {k : Nat} (hk : k < rs.length) {a : Arrival}
    {e : ErrorKind} (ha : ackFailure a = some e) (later : List Arrival) {s : State} (hw : s.cfg.wf = true)
    (hr : s.rx = []) :
    let x := runRounds rs (List.replicate k (.bytes [0xAA]) ++ a :: later) s
    x.result = some e ∧ x.completed = k ∧ x.sent.length = (if a = .abandoned then k else k + 1) ∧ x.arrivals = later := by
  induction rs generalizing k s with
  | nil => exact absurd hk (Nat.not_lt_zero k)
  | cons r rs ih =>
    obtain ⟨⟨henc, hform⟩, hrs'⟩ := List.forall_mem_cons.mp hrs
    cases k with
    | zero =>
      obtain ⟨hsent, hfail⟩ := hostRound_statusOnly henc hform a hw hr
      simp only [ha] at hfail
      rw [List.replicate_zero, List.nil_append, runRounds_cons_error hfail]
      exact ⟨rfl, rfl, hsent, rfl⟩
    | succ k =>
      obtain ⟨hsent, hok, hcfg, hrx⟩ := hostRound_acked henc hform hw hr
      obtain ⟨hresult, hcompleted, hcount, hleft⟩ := ih hrs' (Nat.lt_of_succ_lt_succ hk) (hcfg ▸ hw) hrx
      rw [List.replicate_succ, List.cons_append, runRounds_cons_ok hok]
      refine ⟨hresult, congrArg (· + 1) hcompleted, ?_, hleft⟩
      rw [List.length_append]
      refine (congrArg₂ (· + ·) hsent hcount).trans ?_
      split <;> omega

end Sys2Proof.Machine

namespace Sys2Proof.Proofs

open Sys2Proof Sys2Proof.Machine

/-- Settles O57, code by code. -/
theorem hostErrorKindsOfCodes : Obligations.HostErrorKindsOfCodes :=
  ⟨rfl, rfl, by decide, rfl, by decide⟩

/-- Settles O58: the DATA requests carry the blocks, and the blocks joined are the padded data. -/
theorem transferSendsPaddedBlocks : Obligations.TransferSendsPaddedBlocks := by
  intro h chip offset data n rs
  obtain ⟨hle, hlt⟩ := numBlocks_bounds data.length
  refine ⟨hle, hlt, transferRequests_kinds h chip offset data, fun r hr hkind => ?data, ?joined⟩
  case data =>
    have hmem : r ∈ rs.filter (fun r => r.kind = .data) := List.mem_filter.mpr ⟨hr, by simpa using hkind⟩
    rw [transferRequests_data, List.mem_map] at hmem
    obtain ⟨k, _, rfl⟩ := hmem
    exact ⟨block_length data k, rfl⟩
  case joined =>
    rw [transferRequests_data, List.map_map]
    exact flatten_all_blocks data

end Sys2Proof.Proofs
end

section
/-! Calls of a session: send_region by the rounds of its transfer (R218, R226), and a full sequence that ends at the check after
Query (R222). -/

namespace Sys2Proof.Machine

/-! send_region (R218, R226). -/

/-- The session after the transfer of a region, with the negotiation where the transfer left it. -/
def Session.afterRounds (x : Session) (e : RoundsEnd) (n : Negotiation) : Session :=
  { x with state := e.state, arrivals := e.arrivals, sent := x.sent ++ e.sent, negotiation := n }

section
variable {h : HostCfg} {kind : Region} {offset length : Nat} {data : List Byte} {x : Session} {chip : ChipInfo}

/-- In the state of the region, with a chip and enough bytes, send_region makes the transfer. -/
theorem sendRegion_eq_transfer (hchip : x.chip = some chip) (hreached : x.negotiation = .reached kind.phase)
    (hlen : length ≤ data.length) :
    let e := transfer h chip offset (data.take length) x.arrivals x.state
    let y := x.afterRounds e (afterTransfer kind length e)
    x.sendRegion h kind offset length data = (y, y.answer) := by
  have hcall : x.sendRegion h kind offset length data = _ :=
    Session.call_of_allowed hreached (decide_eq_true rfl)
  rw [hcall, regionPhase_of_chip hchip hlen]
  rfl

/-- A transfer that completed takes the session to the next state. -/
theorem sendRegion_of_completed (hchip : x.chip = some chip) (hreached : x.negotiation = .reached kind.phase)
    (hlen : length ≤ data.length)
    (hok : (transfer h chip offset (data.take length) x.arrivals x.state).result = none) :
    x.sendRegion h kind offset length data =
      (x.afterRounds (transfer h chip offset (data.take length) x.arrivals x.state) (.reached kind.phase.next),
        .ok ()) := by
  rw [sendRegion_eq_transfer hchip hreached hlen, afterTransfer_of_ok hok, Session.answer_of_reached rfl]

/-- A transfer that ended in an error ends the session. -/
theorem sendRegion_of_failed {k : ErrorKind} (hchip : x.chip = some chip) (hreached : x.negotiation = .reached kind.phase)
    (hlen : length ≤ data.length)
    (hfail : (transfer h chip offset (data.take length) x.arrivals x.state).result = some k) :
    let e := transfer h chip offset (data.take length) x.arrivals x.state
    let err := regionError kind k (acknowledgedBytes length e.completed)
    x.sendRegion h kind offset length data = (x.afterRounds e (.failed err), .error err) := by
  rw [sendRegion_eq_transfer hchip hreached hlen, afterTransfer_of_error hfail, Session.answer_of_failed rfl]

end

/-! The QUERY round (R210, R221). -/

/-- A round whose reply is the whole data-form response with state byte 0xAA hands over one frame and ends in its fields. -/
theorem hostRound_dataForm {r : Request} (h : r.Encodable) {p : List Byte} (hf : rspForm r.kind = .dataForm p.length)
    {s : State} (hw : s.cfg.wf = true) (hr : s.rx = []) :
    let e := hostRound r (.bytes (rspData s.cfg (s.cfg.typeCode r.kind) p 0xAA)) s
    e.state.cfg = s.cfg ∧ (∃ frame, e.sent = [frame]) ∧ ∃ t c, e.result = .ok (.response t p c 0xAA) := by
  intro e
  obtain ⟨s1, _, hrx, hcfg, hs⟩ := sendRequest_of_encodable h hw
  have hput : (hostPut (rspData s.cfg (s.cfg.typeCode r.kind) p 0xAA) s1).rx =
      rspData (hostPut (rspData s.cfg (s.cfg.typeCode r.kind) p 0xAA) s1).cfg (s.cfg.typeCode r.kind) p 0xAA := by
    rw [hostPut_rx, hostPut_cfg, hrx, hr, hcfg, List.nil_append]
  have hkind : kindOf (hostPut (rspData s.cfg (s.cfg.typeCode r.kind) p 0xAA) s1).cfg (s.cfg.typeCode r.kind) =
      some r.kind := by
    rw [hostPut_cfg, hcfg, kindOf_typeCode_self hw]
  have hdec := issue_of_exec (exec_decRsp_rspData hkind hf (.inl rfl) hput)
  have he : e = hostRound r (.bytes (rspData s.cfg (s.cfg.typeCode r.kind) p 0xAA)) s := rfl
  rw [hostRound] at he
  simp only [hs, hdec] at he
  rw [he]
  exact ⟨hcfg, ⟨_, rfl⟩, _, _, rfl⟩

/-- A round of a session that ends in outputs goes on with them. -/
theorem Session.round_of_ok {p : Phase} {r : Request} {next : Outputs → Session → Session} {x : Session} {out : Outputs}
    (h : (hostRound r (nextArrival x.arrivals) x.state).result = .ok out) :
    let e := hostRound r (nextArrival x.arrivals) x.state
    x.round p r next = next out { x with state := e.state, arrivals := x.arrivals.tail, sent := x.sent ++ e.sent } := by
  rw [Session.round]
  simp only [h]

/-! The check after Query (R222). -/

/-- The Chip Info of a payload (R98, R198). -/
def chipInfoOf (c : Cfg) (p : List Byte) : ChipInfo where
  ca := (byteAt p 0).getLsbD c.caBit
  tee := (byteAt p 0).getLsbD c.teeBit
  multiform := (byteAt p 0).getLsbD c.multiformBit
  bootVersion := byteAt p 3 ++ byteAt p 4 ++ byteAt p 5 ++ byteAt p 6
  systemId := byteAt p 7 ++ byteAt p 8 ++ byteAt p 9 ++ byteAt p 10

/-- PARSE_CHIPINFO of an 11-byte payload gives the host the payload's Chip Info (R198, R221). -/
theorem chipOf_parseChipInfo {p : List Byte} (hp : p.length = 11) (s : State) :
    chipOf (lastOutputs (issue (.parseChipInfo p) s)) = some (chipInfoOf s.cfg p) := by
  rw [lastOutputs_issue, effect, if_neg (not_not.mpr hp), chipInfoOutputs_eq]
  rfl

/-- The state Query fails at once on a chip that the host must not go on with, and has sent one frame (R222, C6). -/
theorem queryPhase_of_unsupported {h : HostCfg} {x : Session} {p : List Byte} {later : List Arrival}
    (hw : x.state.cfg.wf = true) (hrx : x.state.rx = []) (hquery : h.queryPayload.length ≤ 1024) (hp : p.length = 11)
    (hbad : unsupported h (chipInfoOf x.state.cfg p) = true)
    (harr : x.arrivals = .bytes (rspData x.state.cfg (x.state.cfg.typeCode .query) p 0xAA) :: later) :
    ∃ frame, (queryPhase h x).negotiation = .failed (phaseError .query .unsupportedChip) ∧
      (queryPhase h x).sent = x.sent ++ [frame] ∧ (queryPhase h x).arrivals = later ∧
      (queryPhase h x).chip = some (chipInfoOf x.state.cfg p) := by
  have henc : Request.Encodable { kind := .query, payload := h.queryPayload, sq := chosenSq h.queryBoardSeq } :=
    ⟨hquery, nofun⟩
  have hform : rspForm .query = .dataForm p.length := by rw [hp]; rfl
  have harrival : nextArrival x.arrivals = .bytes (rspData x.state.cfg (x.state.cfg.typeCode .query) p 0xAA) := by
    rw [harr, nextArrival]
  obtain ⟨hcfg, ⟨frame, hsent⟩, t, c, hok⟩ := hostRound_dataForm henc hform hw hrx
  rw [← harrival] at hcfg hsent hok
  refine ⟨frame, ?_⟩
  rw [queryPhase, Session.round_of_ok hok]
  simp only [Session.issue, responsePayload, chipOf_parseChipInfo hp, hcfg, hbad, if_true]
  exact ⟨rfl, by rw [← hsent]; rfl, by rw [harr]; rfl, rfl⟩

/-- A failed session runs no state of the negotiation any more (R227). -/
theorem foldl_runPhase_of_failed {h : HostCfg} {im : Images} {x : Session} {e : SessionError}
    (hx : x.negotiation = .failed e) (ps : List Phase) : ps.foldl (fun x p => runPhase h im p x) x = x := by
  induction ps with
  | nil => rfl
  | cons p ps ih =>
    have hne : x.negotiation ≠ .reached p := by simp [hx]
    rw [List.foldl_cons, runPhase_of_ne hne, ih]

/-- A full sequence that fails in Query ends there. -/
theorem runFullSequence_of_query_failed {h : HostCfg} {im : Images} {x : Session} {e : SessionError}
    (hx : x.negotiation = .reached .query) (hfail : (queryPhase h x).negotiation = .failed e) :
    x.runFullSequence h im = (queryPhase h x, .error e) := by
  have hcall : x.runFullSequence h im = _ := Session.call_of_allowed hx (by decide)
  have hrun : phaseOrder.foldl (fun x p => runPhase h im p x) x = queryPhase h x := by
    rw [phaseOrder, List.foldl_cons, runPhase_of_reached hx]
    exact foldl_runPhase_of_failed hfail _
  rw [hcall, hrun, Session.answer_of_failed hfail]

end Sys2Proof.Machine

namespace Sys2Proof.Proofs

open Sys2Proof Sys2Proof.Machine

/-- Settles O59: send_region makes the transfer's rounds, each with a status-only reply. -/
theorem failedReplyStopsTransfer : Obligations.FailedReplyStopsTransfer := by
  intro h kind offset length data x chip hw _ hrx hchip hreached hlen hhead htail n
  have htake : (data.take length).length = length := List.length_take_of_le hlen
  have hrs : StatusOnlyRequests (transferRequests h chip offset (data.take length)) :=
    fun r hr => transferRequests_encodable (by rwa [htake]) htail hr
  have hcount : (transferRequests h chip offset (data.take length)).length = n := by
    rw [transferRequests_length, htake]
  refine ⟨fun later harr => ?completed, fun k a later e hk harr ha => ?failed⟩
  case completed =>
    obtain ⟨hok, hsent, hleft⟩ := runRounds_acked hrs later (s := issue .seqRestart x.state) hw hrx
    rw [hcount, ← harr] at hok hsent hleft
    exact ⟨_, _, sendRegion_of_completed hchip hreached hlen hok, rfl, hsent, hleft, hchip, rfl⟩
  case failed =>
    intro err
    obtain ⟨hfail, hcompleted, hsent, hleft⟩ :=
      runRounds_failed hrs (hcount ▸ hk) ha later (s := issue .seqRestart x.state) hw hrx
    rw [← harr] at hfail hcompleted hsent hleft
    have hcall := sendRegion_of_failed (h := h) (offset := offset) hchip hreached hlen hfail
    have herr : regionError kind e (acknowledgedBytes length
        (transfer h chip offset (data.take length) x.arrivals x.state).completed) = err := by
      rw [transfer, hcompleted]
      rfl
    simp only [herr] at hcall
    exact ⟨_, _, hcall, rfl, hsent, hleft, endedBy_of_failed rfl⟩

/-- Settles O60: Query is the first state, and its check ends the session. -/
theorem unsupportedChipFailsAfterQuery : Obligations.UnsupportedChipFailsAfterQuery := by
  intro h im s p later hw hquery hp flag chip hbad x err
  have hunsupported : unsupported h (chipInfoOf x.state.cfg p) = true := by
    have hbad' : (chipInfoOf x.state.cfg p).ca = true ∨ h.fastbootV1 (chipInfoOf x.state.cfg p) = false := hbad
    rwa [unsupported, Bool.or_eq_true, Bool.not_eq_true']
  obtain ⟨frame, hfail, hsent, hleft, hchip⟩ :=
    queryPhase_of_unsupported (x := x) hw rfl hquery hp hunsupported rfl
  exact ⟨queryPhase h x, frame, runFullSequence_of_query_failed rfl hfail, hsent, hleft, hchip, endedBy_of_failed hfail⟩

end Sys2Proof.Proofs
end
